-- ==== Sys2Proof/Word.lean ====
section
/-! DEFINITION. The widths the spec treats as bits: the 64-bit command and response word, the 32-bit
value, the 16-bit pixel, the byte, and the 40-bit accumulator (spec/00_scope.md R6, R7). -/

namespace Sys2Proof

/-- A command word or a response word: 64 bits (00_scope.md R7, CMDW). -/
abbrev Word := BitVec 64

/-- A 32-bit value: field `C` of a command, field `VAL` of a response (30_encoding.md R62, R66). -/
abbrev Value := BitVec 32

/-- A pixel: 16 bits, unsigned (00_scope.md R6, PIXW). -/
abbrev Pixel := BitVec 16

/-- A byte (00_scope.md R6). -/
abbrev Byte := BitVec 8

/-- A packer or unpacker accumulator: 40 bits (00_scope.md R7, ACCW). -/
abbrev Acc := BitVec 40

end Sys2Proof
end

