-- ==== Sys2Proof/Syntax.lean ====
section
/-! DEFINITION. The sixteen commands of the DBE (spec/30_encoding.md R64), one constructor per row of
spec/opcode_table.json, each with the operands of its format (R63, R65). -/

namespace Sys2Proof

/-- A command with its operands as the fields of the command word hold them (30_encoding.md R64, R65).
An operand outside its legal range is still an operand: the command's own rule answers it with an error. -/
inductive Instr where
  /-- `RESET`: all state to its reset value (R119). -/
  | reset
  /-- `CONFIG W, H`: reset, then set the frame geometry (R120). -/
  | config (w h : BitVec 16)
  /-- `CINIT`: new compressor instance (R112). -/
  | cinit
  /-- `DINIT`: new decompressor instance (R113). -/
  | dinit
  /-- `RDREG n`: read status register `n` (R121). -/
  | rdreg (n : Value)
  /-- `WRPIX y, x, v`: write one pixel of `FIN` (R122). -/
  | wrpix (y x : BitVec 16) (v : Pixel)
  /-- `RDPIX sel, y, x`: read one pixel of a pixel buffer (R123). -/
  | rdpix (sel : BitVec 8) (y x : BitVec 16)
  /-- `WRIB i, b`: write one byte of `IBUF` (R124). -/
  | wrib (i : Value) (b : Byte)
  /-- `RDOB i`: read one byte of the output stream (R125). -/
  | rdob (i : Value)
  /-- `PKINIT w`: open the packer (R82). -/
  | pkinit (w : BitVec 8)
  /-- `PKPUSH v`: pack one value (R83). -/
  | pkpush (v : Value)
  /-- `PKFLUSH`: end the packed stream (R84). -/
  | pkflush
  /-- `UPINIT w, size`: open the unpacker (R88). -/
  | upinit (w : BitVec 8) (size : Value)
  /-- `UPPOP`: unpack one value (R89). -/
  | uppop
  /-- `COMPRESS`: compress the frame in `FIN` (R103). -/
  | compress
  /-- `DECOMPRESS w, size`: decompress the payload in `IBUF` (R108). -/
  | decompress (w : BitVec 8) (size : Value)
deriving DecidableEq, Repr

end Sys2Proof
end

