-- ==== Sys2Proof/Decode.lean ====
section
/-! DEFINITION. The decoder of command words, total on every 64-bit word and rejecting by name, and after
it the encoder, both written from the same tables (spec/30_encoding.md R62, R63, R64, R65, R67). -/

namespace Sys2Proof

/-- Why a command word is illegal (30_encoding.md R67). -/
inductive DecodeError where
  /-- `OP` is not one of the sixteen assigned opcodes (R64, R67). -/
  | unassignedOpcode (op : Nat)
  /-- A must-be-zero field of the command's format is not 0 (R63, R67). -/
  | mustBeZero (op : Nat)
deriving DecidableEq, Repr

/-- The eight formats of 30_encoding.md R63. -/
inductive Format where
  | Z | W | WS | V | BA | G | SP | PX
deriving DecidableEq, Repr

/-- Bits 63:56 (R62). -/
def cmdOp (c : Word) : BitVec 8 := c.extractLsb' 56 8
/-- Bits 55:40 (R62). -/
def cmdA (c : Word) : BitVec 16 := c.extractLsb' 40 16
/-- Bits 39:32 (R62). -/
def cmdB (c : Word) : BitVec 8 := c.extractLsb' 32 8
/-- Bits 31:0 (R62). -/
def cmdC (c : Word) : BitVec 32 := c.extractLsb' 0 32
/-- `C[31:16]`: row `y` or `H` (R62, R65). -/
def cmdHi (c : Word) : BitVec 16 := c.extractLsb' 16 16
/-- `C[15:0]`: column `x` or `W` (R62, R65). -/
def cmdLo (c : Word) : BitVec 16 := c.extractLsb' 0 16

/-- The format of an opcode by the opcode map of R64; none for an unassigned opcode. -/
def formatOf (op : Nat) : Option Format :=
  match op with
  | 0x01 => some .Z
  | 0x02 => some .G
  | 0x03 => some .Z
  | 0x04 => some .Z
  | 0x08 => some .V
  | 0x10 => some .PX
  | 0x11 => some .SP
  | 0x12 => some .BA
  | 0x13 => some .V
  | 0x20 => some .W
  | 0x21 => some .V
  | 0x22 => some .Z
  | 0x28 => some .WS
  | 0x29 => some .Z
  | 0x30 => some .Z
  | 0x31 => some .WS
  | _ => none

/-- The must-be-zero fields of a format are 0 in a word (the table of R63). -/
def Format.mustBeZeroOk (f : Format) (c : Word) : Bool :=
  match f with
  | .Z => cmdA c == 0 && cmdB c == 0 && cmdC c == 0
  | .W => cmdA c == 0 && cmdC c == 0
  | .WS => cmdA c == 0
  | .V => cmdA c == 0 && cmdB c == 0
  | .BA => cmdA c == 0
  | .G => cmdA c == 0 && cmdB c == 0
  | .SP => cmdA c == 0
  | .PX => cmdB c == 0

/-- The mask column of the table of R63: a 1 for every bit the format fixes. -/
def Format.mask : Format → Word
  | .Z => 0xFFFFFFFFFFFFFFFF#64
  | .W => 0xFFFFFF00FFFFFFFF#64
  | .WS => 0xFFFFFF0000000000#64
  | .V => 0xFFFFFFFF00000000#64
  | .BA => 0xFFFFFF0000000000#64
  | .G => 0xFFFFFFFF00000000#64
  | .SP => 0xFFFFFF0000000000#64
  | .PX => 0xFF0000FF00000000#64

/-- `match = OP << 56` (R63). -/
def opMatch (op : Nat) : Word := BitVec.ofNat 64 op <<< 56

/-- The command of an assigned opcode with its operands assembled from the word's fields (R64, R65). -/
def assemble (op : Nat) (c : Word) : Option Instr :=
  match op with
  | 0x01 => some .reset
  | 0x02 => some (.config (cmdLo c) (cmdHi c))
  | 0x03 => some .cinit
  | 0x04 => some .dinit
  | 0x08 => some (.rdreg (cmdC c))
  | 0x10 => some (.wrpix (cmdHi c) (cmdLo c) (cmdA c))
  | 0x11 => some (.rdpix (cmdB c) (cmdHi c) (cmdLo c))
  | 0x12 => some (.wrib (cmdC c) (cmdB c))
  | 0x13 => some (.rdob (cmdC c))
  | 0x20 => some (.pkinit (cmdB c))
  | 0x21 => some (.pkpush (cmdC c))
  | 0x22 => some .pkflush
  | 0x28 => some (.upinit (cmdB c) (cmdC c))
  | 0x29 => some .uppop
  | 0x30 => some .compress
  | 0x31 => some (.decompress (cmdB c) (cmdC c))
  | _ => none

/-- The decoder: step 1 of 30_encoding.md R68. An opcode that is not assigned is rejected first, then a
non-zero must-be-zero field; "It is never executed as another command, never as a no-operation" (R67). -/
def decode (c : Word) : Except DecodeError Instr :=
  match formatOf (cmdOp c).toNat, assemble (cmdOp c).toNat c with
  | some f, some i => if f.mustBeZeroOk c then .ok i else .error (.mustBeZero (cmdOp c).toNat)
  | _, _ => .error (.unassignedOpcode (cmdOp c).toNat)

/-- A command word from its four fields (R62). -/
def cmdWord (op : BitVec 8) (a : BitVec 16) (b : BitVec 8) (c : BitVec 32) : Word :=
  op ++ a ++ b ++ c

/-- A command word whose `C` is a pair `C[31:16]`, `C[15:0]` (R62). -/
def cmdWordPair (op : BitVec 8) (a : BitVec 16) (b : BitVec 8) (hi lo : BitVec 16) : Word :=
  cmdWord op a b (hi ++ lo)

/-- The encoder: the word of a command by the opcode map of R64 and the formats of R63. -/
def encode : Instr → Word
  | .reset => cmdWord 0x01 0 0 0
  | .config w h => cmdWordPair 0x02 0 0 h w
  | .cinit => cmdWord 0x03 0 0 0
  | .dinit => cmdWord 0x04 0 0 0
  | .rdreg n => cmdWord 0x08 0 0 n
  | .wrpix y x v => cmdWordPair 0x10 v 0 y x
  | .rdpix sel y x => cmdWordPair 0x11 0 sel y x
  | .wrib i b => cmdWord 0x12 0 b i
  | .rdob i => cmdWord 0x13 0 0 i
  | .pkinit w => cmdWord 0x20 0 w 0
  | .pkpush v => cmdWord 0x21 0 0 v
  | .pkflush => cmdWord 0x22 0 0 0
  | .upinit w size => cmdWord 0x28 0 w size
  | .uppop => cmdWord 0x29 0 0 0
  | .compress => cmdWord 0x30 0 0 0
  | .decompress w size => cmdWord 0x31 0 w size

/-- The rows of spec/opcode_table.json as (opcode, format), in the table's order. -/
def opcodeRows : List (Nat × Format) :=
  [(0x01, .Z), (0x02, .G), (0x03, .Z), (0x04, .Z), (0x08, .V), (0x10, .PX), (0x11, .SP), (0x12, .BA)] ++
  [(0x13, .V), (0x20, .W), (0x21, .V), (0x22, .Z), (0x28, .WS), (0x29, .Z), (0x30, .Z), (0x31, .WS)]

/-- The instruction read from a command word given as a number, bit 0 its least significant bit. A command
is always 64 bits (30_encoding.md R62, R71); its bits at or above `nbits` are 0 (log 5). -/
def decodeTableWord (nbits w : Nat) : Option Instr :=
  match decode (BitVec.ofNat 64 (w % 2 ^ nbits)) with
  | .ok i => some i
  | .error _ => none

end Sys2Proof
end

