-- ==== Sys2Proof/Config.lean ====
section
/-! DEFINITION. What an implementation fixes: the one open parameter of the spec, `MAXN`
(spec/00_scope.md R8), as the value the machine of `State.reset` has. -/

namespace Sys2Proof

/-- `MAXN` of the machine that `State.reset` builds. The spec leaves the parameter open ("a model takes
it as an argument", R8), so State carries it and every claim about a state holds for every value of it;
this number is only what the reset state of this package is instantiated with.
DESIGN CHOICE (log 1), unsafe for a claim that leans on the number: the least capacity that runs every
vector of spec/95_test_vectors.md but program P7. -/
def Config.maxN : Nat := 19200

/-- The least and the greatest `MAXN` the spec allows: `1 ≤ MAXN ≤ 65535 * 65535` (R8). -/
def Config.maxNLimit : Nat := 65535 * 65535

end Sys2Proof
end

