-- ==== Sys2Proof/Machine/State.lean ====
section
/-! DEFINITION. The state of the DBE: one field per row of the table in section 1 of spec/10_state.md, the
open parameter `MAXN`, and the host's side of the ports; the outcomes' reasons; the state after reset
(spec/70_reset_and_hazards.md R152). -/

namespace Sys2Proof.Machine

/-- A buffer of `k`-bit cells: the (index, value) pairs whose value is not 0, indices strictly rising. For
bytes it is a list of `Host.Cell`. An unlisted index reads 0, what every cell holds after reset (R152). -/
abbrev Memory (k : Nat) := List (Nat × BitVec k)

/-- The response codes (spec/60_exceptions.md R133). -/
inductive Err where
  /-- 0: the command did what its rule says. -/
  | ok
  /-- 1: the input stream ended before a value was complete (R134). -/
  | endOfStream
  /-- 2: a width operand outside `1..32` (R135). -/
  | badWidth
  /-- 3: the command needs a geometry and `CFG = 0` (R136). -/
  | notConfigured
  /-- 4: the command needs an open packer or unpacker (R137). -/
  | notOpen
  /-- 5: an index, size, selector, register number or dimension outside its range (R138). -/
  | badOperand
  /-- 6: the output buffer cannot take the bytes the command would emit (R140). -/
  | bufferFull
  /-- 7: unassigned opcode or non-zero must-be-zero field (R140). -/
  | illegalCommand
deriving DecidableEq, Repr

/-- What the host does to the engine from outside: it presents a command word (30_encoding.md R61) or it
asserts the hardware reset input (70_reset_and_hazards.md R151). DESIGN CHOICE (log 2), safe. -/
inductive HostInput where
  /-- A command word on the command port. -/
  | command (c : Word)
  /-- The hardware reset input. -/
  | resetInput
deriving DecidableEq, Repr

/-- The whole machine. -/
structure State where
  /-- The model's own: what the host will present, in order (log 2). Not state of the spec. -/
  inputs : List HostInput
  /-- The model's own: the response words returned so far, oldest first, the trace of R61 (log 3). -/
  trace : List Word
  /-- The parameter `MAXN` (00_scope.md R8), which no command and no reset writes (log 1). -/
  maxN : Nat
  /-- `CFG`: the engine is configured (R15). -/
  cfg : Bool
  /-- `W`: columns (R15). -/
  w : Nat
  /-- `H`: rows (R15). -/
  h : Nat
  /-- `N`: pixels (R15). -/
  n : Nat
  /-- `PK_W`: packer width, 0 when closed (R16). -/
  pkW : Nat
  /-- `PK_ACC`: packer accumulator, valid bits at the top (R17). -/
  pkAcc : Acc
  /-- `PK_CNT`: valid bits in `PK_ACC` (R17). -/
  pkCnt : Nat
  /-- `OBUF`: output byte buffer (R19). -/
  obuf : Memory 8
  /-- `OLEN`: bytes written to `OBUF` (R19). -/
  olen : Nat
  /-- `UP_W`: unpacker width, 0 when closed (R20). -/
  upW : Nat
  /-- `UP_ACC`: unpacker accumulator, valid bits at the top (R20). -/
  upAcc : Acc
  /-- `UP_CNT`: valid bits in `UP_ACC` (R20). -/
  upCnt : Nat
  /-- `IBUF`: input byte buffer (R21). -/
  ibuf : Memory 8
  /-- `ILEN`: valid bytes in `IBUF` (R21). -/
  ilen : Nat
  /-- `IPTR`: bytes consumed from `IBUF` (R21). -/
  iptr : Nat
  /-- `FIN`: the frame to compress, by raster index (R22, 20_memory.md R37). -/
  fin : Memory 16
  /-- `CPREV`: the compressor's previous frame (R23). -/
  cprev : Memory 16
  /-- `CWIDTH`: width of the last compressed frame, 0 when there is none yet (R24). -/
  cwidth : Nat
  /-- `CSIZE`: payload length of the last compressed frame (R24; log 6). -/
  csize : Nat
  /-- `MINPIX` (R25). -/
  minPix : Pixel
  /-- `MAXPIX` (R25). -/
  maxPix : Pixel
  /-- `DPREV`: the decompressor's previous frame (R26). -/
  dprev : Memory 16
  /-- `FOUT`: the last decompressed frame (R27). -/
  fout : Memory 16
  /-- `LASTERR`: response code of the last command (R29). -/
  lastErr : BitVec 8
deriving DecidableEq, Repr

/-- Why the machine could stop with a fault: there is no reason. Every error of the DBE is reported in a
response and the engine "is at once ready for the next command" (60_exceptions.md R144); "every command word
in every state has exactly one defined outcome" (93_implementation_defined.md). Safe. -/
inductive Fault where
deriving DecidableEq, Repr

/-- Why the model could refuse an instruction. -/
inductive Refusal where
  /-- Raised only by an arm of `exec` for an instruction that has no meaning yet; no arm raises it now. Safe. -/
  | notModelled (mnemonic : String)
deriving DecidableEq, Repr

/-- The reset state of an engine whose parameter is `maxN`: every element at the value of R152, nothing
presented and nothing returned. -/
def State.resetWith (maxN : Nat) : State :=
  { inputs := [], trace := [], maxN := maxN,
    cfg := false, w := 0, h := 0, n := 0,
    pkW := 0, pkAcc := 0, pkCnt := 0, obuf := [], olen := 0,
    upW := 0, upAcc := 0, upCnt := 0, ibuf := [], ilen := 0, iptr := 0,
    fin := [], cprev := [], cwidth := 0, csize := 0, minPix := 0xFFFF, maxPix := 0x0000,
    dprev := [], fout := [], lastErr := 0 }

/-- The machine right after reset (R151, R152), instantiated with `Config.maxN` (log 1). -/
def State.reset : State := State.resetWith Config.maxN

end Sys2Proof.Machine
end

