-- ==== Sys2Proof/Machine/Ops.lean ====
section
/-! DEFINITION. The named operations every command is written with: reading and writing a buffer, ending a
command with a response, raising an error, the reset of all state (spec/00_scope.md R12,
spec/20_memory.md, spec/60_exceptions.md). -/

namespace Sys2Proof.Machine

/-- What an unlisted cell of a buffer reads as: 0, the reset value of every cell (70_reset_and_hazards.md
R152). -/
def unlisted (k : Nat) : BitVec k := 0#k

/-- `BUF[i]`: the value of one cell (00_scope.md R12). -/
def Memory.read {k : Nat} : Memory k → Nat → BitVec k
  | [], _ => unlisted k
  | (a, v) :: m, i => if a = i then v else Memory.read m i

/-- A cell put before a list of cells, unless it holds what an unlisted cell reads as. -/
def Memory.put {k : Nat} (a : Nat) (v : BitVec k) (m : Memory k) : Memory k :=
  if v = unlisted k then m else (a, v) :: m

/-- `BUF[i] <- v`: write one cell, every other cell as before, the canonical form kept. -/
def Memory.write {k : Nat} : Memory k → Nat → BitVec k → Memory k
  | [], i, v => Memory.put i v []
  | (a, u) :: m, i, v =>
    if i < a then Memory.put i v ((a, u) :: m)
    else if a = i then Memory.put i v m
    else (a, u) :: Memory.write m i v

/-- Write cells `0 .. n−1`, in order, each with its value of `f`: a loop that writes a whole frame. -/
def Memory.fill {k : Nat} (m : Memory k) (f : Nat → BitVec k) : Nat → Memory k
  | 0 => m
  | n + 1 => Memory.write (Memory.fill m f n) n (f n)

/-- The canonical form: indices strictly rising, and no cell that reads as an unlisted one does. -/
def Memory.wf {k : Nat} (m : Memory k) : Bool :=
  decide (m.Pairwise fun p q => p.1 < q.1) && m.all fun p => decide (p.2 ≠ unlisted k)

/-- Every listed cell has an index below `n` (buffers end at `BUFCAP`, frames at `N`: 20_memory.md R35). -/
def Memory.below {k : Nat} (m : Memory k) (n : Nat) : Bool :=
  m.all fun p => decide (p.1 < n)

/-- The `n` cells of a buffer from index `a` on, in order. -/
def Memory.slice {k : Nat} (m : Memory k) (a : Nat) : Nat → List (BitVec k)
  | 0 => []
  | n + 1 => Memory.read m a :: Memory.slice m (a + 1) n

/-- `BUFCAP = 4 * MAXN`, the bytes of `IBUF` and of `OBUF` (00_scope.md R7). -/
def State.bufcap (s : State) : Nat := 4 * s.maxN

/-- The number of a response code (60_exceptions.md R133). -/
def Err.code : Err → BitVec 8
  | .ok => 0
  | .endOfStream => 1
  | .badWidth => 2
  | .notConfigured => 3
  | .notOpen => 4
  | .badOperand => 5
  | .bufferFull => 6
  | .illegalCommand => 7

/-- The response word: `ERR` 63:56, zero 55:40, `AUX` 39:32, `VAL` 31:0 (30_encoding.md R66). -/
def responseWord (err : Err) (aux : BitVec 8) (val : Value) : Word :=
  err.code ++ 0#16 ++ aux ++ val

/-- `respond(err, aux, val)`: set `LASTERR` and return the response word (00_scope.md R12). -/
def State.respond (s : State) (err : Err) (aux : BitVec 8) (val : Value) : State :=
  { s with lastErr := err.code, trace := s.trace ++ [responseWord err aux val] }

/-- The normal end of a command: `respond(OK, aux, val)`. -/
def finish (aux : BitVec 8) (val : Value) (s : State) : Host.Outcome State Fault Refusal :=
  .next (s.respond .ok aux val)

/-- `raise err`: end the command here with `respond(err, 0, 0)`; state written before it stays written
(00_scope.md R12). This is all that taking an error is on the DBE: "no state is saved anywhere, no mode
changes, no mask changes" (60_exceptions.md R144), and there is no return from one (R145). -/
def raise (err : Err) (s : State) : Host.Outcome State Fault Refusal :=
  .next (s.respond err 0 0)

/-- Every element of the spec's state at its reset value (42_system_and_buffers.md R119,
70_reset_and_hazards.md R152): the parameter and the host's side of the ports are not state of the DBE and
stay as they are. -/
def State.clear (s : State) : State :=
  { State.resetWith s.maxN with inputs := s.inputs, trace := s.trace }

/-- `IllegalCommand`: "It is checked before anything else, it writes nothing but `LASTERR`"
(60_exceptions.md R140). -/
def illegalCommand (s : State) : Host.Outcome State Fault Refusal := raise .illegalCommand s

end Sys2Proof.Machine
end

