-- ==== Sys2Proof/Machine/Operands.lean ====
section
/-! DEFINITION. How a command's operands are read and checked (spec/30_encoding.md R65,
spec/42_system_and_buffers.md R126), and the addressing of pixels (spec/20_memory.md R37, R40, R41). -/

namespace Sys2Proof.Machine

/-- `wrap_N(v)` for any integer `v`: reduce to `N` bits, read signed (00_scope.md R11). -/
def wrap (bits : Nat) (v : Int) : Int := (BitVec.ofInt bits v).toInt

/-- `u_32(v)`, the 32-bit pattern of any integer (00_scope.md R11). -/
def u32 (v : Int) : Value := BitVec.ofInt 32 v

/-- A count as a response or a status register shows it, modulo `2^32` (30_encoding.md R66, 10_state.md R32). -/
def count32 (m : Nat) : Value := BitVec.ofNat 32 m

/-- A width operand is legal: `1 ≤ w ≤ 32` (R65; 60_exceptions.md R135). -/
def widthLegal (w : BitVec 8) : Bool := decide (1 ≤ w.toNat) && decide (w.toNat ≤ 32)

/-- The value of `PKPUSH`: `sext_32(C)`, an i32 (R65). -/
def pushValue (v : Value) : Int := v.toInt

/-- `y < H` and `x < W` (42_system_and_buffers.md R122, R123; 20_memory.md R47). -/
def State.pixelInRange (s : State) (y x : BitVec 16) : Bool :=
  decide (y.toNat < s.h) && decide (x.toNat < s.w)

/-- The raster index of pixel `(y, x)`: `y * W + x` (20_memory.md R37). -/
def raster (w y x : Nat) : Nat := y * w + x

/-- `snake(y, x)` in a frame of width `w` (20_memory.md R40). -/
def snake (w y x : Nat) : Nat :=
  if y % 2 = 0 then y * w + x else y * w + (w - 1 - x)

/-- The pixel `(y, x)` at snake index `i`, the inverse of `snake` (20_memory.md R41). -/
def unsnake (w i : Nat) : Nat × Nat :=
  if i / w % 2 = 0 then (i / w, i % w) else (i / w, w - 1 - i % w)

/-- `PB[y][x]`, a pixel of a pixel buffer (00_scope.md R12). -/
def pixel (pb : Memory 16) (w y x : Nat) : Pixel := Memory.read pb (raster w y x)

/-- The selector of `RDPIX`: 0 = `FOUT`, 1 = `FIN`, 2 = `CPREV`, 3 = `DPREV`; any other names no buffer
(42_system_and_buffers.md R123). -/
def State.selected (s : State) (sel : BitVec 8) : Option (Memory 16) :=
  match sel.toNat with
  | 0 => some s.fout
  | 1 => some s.fin
  | 2 => some s.cprev
  | 3 => some s.dprev
  | _ => none

end Sys2Proof.Machine
end

