-- ==== Sys2Proof/Machine/Fields.lean ====
section
/-! DEFINITION. The encodings of data (spec/30_encoding.md Part A, spec/40_bitpack.md section 1): the `w`-bit
field, the packed bit stream, the little-endian word, the payload, and the sequence functions `pack` and
`unpack`, as pure functions on numbers and byte lists. -/

namespace Sys2Proof.Machine

/-- `enc_w(v) = v mod 2^w` (R53). -/
def enc (w : Nat) (v : Int) : Nat := (v % (2 ^ w : Nat)).toNat

/-- `dec_w(x)`: the signed reading of a `w`-bit field (R54). -/
def dec (w : Nat) (x : Nat) : Int := if x < 2 ^ (w - 1) then (x : Int) else (x : Int) - (2 ^ w : Nat)

/-- `Σ_k enc_w(s_k) * 2^(w*(n−1−k))` (R56): the fields of a sequence, concatenated, read as one number. -/
def fieldsValue (w : Nat) (S : List Int) : Nat :=
  S.foldl (fun z v => z * 2 ^ w + enc w v) 0

/-- `⌈bits / 8⌉`. -/
def bytesFor (bits : Nat) : Nat := (bits + 7) / 8

/-- Byte `j` of an `len`-byte number written most significant byte first (R56). -/
def byteOf (z len j : Nat) : Byte := BitVec.ofNat 8 (z / 2 ^ (8 * (len - 1 - j)))

/-- `pack(S, w)` (40_bitpack.md R73): the bytes of the bit stream `bits(S, w)` of R56, `L = ⌈n*w/8⌉` bytes of
`Z = (Σ …) * 2^P` with `P = (−n*w) mod 8` pad bits. -/
def pack (w : Nat) (S : List Int) : List Byte :=
  let len := bytesFor (S.length * w)
  let z := fieldsValue w S * 2 ^ (8 * len - S.length * w)
  (List.range len).map (byteOf z len)

/-- Bytes read as one number, most significant byte first. -/
def bytesValue (Y : List Byte) : Nat := Y.foldl (fun z b => z * 256 + b.toNat) 0

/-- The `w` bits of `Y` at stream bit positions `k*w .. k*w + w − 1`, the first most significant
(40_bitpack.md R74). -/
def fieldAt (Y : List Byte) (w k : Nat) : Nat :=
  bytesValue Y / 2 ^ (8 * Y.length - (k + 1) * w) % 2 ^ w

/-- `unpack(Y, w, n)` (40_bitpack.md R74): the `n` values, or none where `8 * |Y| < n * w` (`EndOfStream`). -/
def unpack (w n : Nat) (Y : List Byte) : Option (List Int) :=
  if n * w ≤ 8 * Y.length then some ((List.range n).map fun k => dec w (fieldAt Y w k)) else none

/-- Byte `i` of `LE32(v)`: `(u_32(v) div 2^(8*i)) mod 256` (R57; log 7). -/
def le32Byte (v : Int) (i : Nat) : Byte := BitVec.ofNat 8 ((u32 v).toNat / 2 ^ (8 * i))

/-- `LE32(v)`: four bytes, the least significant first (R57). -/
def le32 (v : Int) : List Byte := (List.range 4).map (le32Byte v)

/-- `SLE32(b_0, b_1, b_2, b_3)` (R57). -/
def sle32 (b0 b1 b2 b3 : Byte) : Int :=
  (BitVec.ofNat 32 (b0.toNat + 2 ^ 8 * b1.toNat + 2 ^ 16 * b2.toNat + 2 ^ 24 * b3.toNat)).toInt

/-- The length of a payload: `4 + ⌈(N−1) * w / 8⌉` (R59). -/
def payloadLength (n w : Nat) : Nat := 4 + bytesFor ((n - 1) * w)

/-- The payload of a frame: `LE32(Δ[0])`, then the packed adjacent deltas (R58). -/
def payload (d0 : Int) (a : List Int) (w : Nat) : List Byte := le32 d0 ++ pack w a

end Sys2Proof.Machine
end

