-- ==== Sys2Proof/Machine/Bitpack.lean ====
section
/-! DEFINITION. The internal procedures of the packer and the unpacker (spec/40_bitpack.md section 2), which
the commands of the bitpack family and the codec call. -/

namespace Sys2Proof.Machine

/-- `pk_init(w)`: start a packing sequence (R77). -/
def State.pkInit (s : State) (w : Nat) : State := { s with pkW := w, pkAcc := 0, pkCnt := 0 }

/-- `emit(b)`: append one byte to the output buffer (R78). -/
def State.emit (s : State) (b : Byte) : State :=
  { s with obuf := Memory.write s.obuf s.olen b, olen := s.olen + 1 }

/-- Emit the bytes of a list in order. -/
def State.emitAll (s : State) : List Byte → State
  | [] => s
  | b :: bs => State.emitAll (s.emit b) bs

/-- `PK_ACC[39:32]`, the byte the packer emits next (R79). -/
def State.pkTop (s : State) : Byte := s.pkAcc.extractLsb' 32 8

/-- The first two lines of `pk_push`: the field goes just below the valid bits and the count grows by `w`
(R79). -/
def State.pkPlace (s : State) (v : Int) : State :=
  { s with
    pkAcc := s.pkAcc ||| (BitVec.ofNat 40 (enc s.pkW v) <<< (40 - s.pkCnt - s.pkW))
    pkCnt := s.pkCnt + s.pkW }

/-- One turn of the loop of `pk_push`: emit the top byte, shift the accumulator left by 8 (R79). -/
def State.pkShiftByte (s : State) : State :=
  { s.emit s.pkTop with pkAcc := s.pkAcc <<< 8, pkCnt := s.pkCnt - 8 }

/-- `while PK_CNT ≥ 8: …` (R79). Each turn takes 8 from the count, so a fuel of the count at the start is
never used up. -/
def State.pkDrain : Nat → State → State
  | 0, s => s
  | fuel + 1, s => if 8 ≤ s.pkCnt then State.pkDrain fuel s.pkShiftByte else s

/-- `pk_push(v)`: pack one value (R79). -/
def State.pkPush (s : State) (v : Int) : State := State.pkDrain (s.pkCnt + s.pkW) (s.pkPlace v)

/-- `pk_push` of each value of a list in order. -/
def State.pkPushAll (s : State) : List Int → State
  | [] => s
  | v :: vs => State.pkPushAll (s.pkPush v) vs

/-- The bytes the next `pk_push` emits: `(PK_CNT + PK_W) div 8` (R79, R83). -/
def State.pushBytes (s : State) : Nat := (s.pkCnt + s.pkW) / 8

/-- The bytes `pk_flush` emits: one when bits remain, else none (R80, R84). -/
def State.flushBytes (s : State) : Nat := if 0 < s.pkCnt then 1 else 0

/-- `pk_flush()`: emit the last partial byte and close the packer (R80). -/
def State.pkFlush (s : State) : State :=
  { (if 0 < s.pkCnt then s.emit s.pkTop else s) with pkAcc := 0, pkCnt := 0, pkW := 0 }

/-- `up_init(w)`: start an unpacking sequence (R85). -/
def State.upInit (s : State) (w : Nat) : State := { s with upW := w, upAcc := 0, upCnt := 0 }

/-- Closing the unpacker: `UP_W <- 0 ; UP_ACC <- 0 ; UP_CNT <- 0` (41_codec.md R108). -/
def State.upClose (s : State) : State := { s with upW := 0, upAcc := 0, upCnt := 0 }

/-- One turn of the loop of `up_pop`: read the next byte into the eight bits just below the valid ones
(R86). -/
def State.upTakeByte (s : State) : State :=
  { s with
    iptr := s.iptr + 1
    upAcc := s.upAcc ||| (BitVec.ofNat 40 (Memory.read s.ibuf s.iptr).toNat <<< (40 - s.upCnt - 8))
    upCnt := s.upCnt + 8 }

/-- `while UP_CNT < w: …` (R86): the state the loop ends in, and whether it got its `w` bits; it does not
when a byte is needed and `IPTR = ILEN`. Each turn adds 8 to the count, so a fuel of `w` is never used up. -/
def State.upFetch : Nat → State → Bool × State
  | 0, s => (true, s)
  | fuel + 1, s =>
    if s.upW ≤ s.upCnt then (true, s)
    else if s.iptr = s.ilen then (false, s)
    else State.upFetch fuel s.upTakeByte

/-- The last four lines of `up_pop`: take the top `w` bits (R86). -/
def State.upTake (s : State) : Int × State :=
  (dec s.upW (s.upAcc.toNat / 2 ^ (40 - s.upW)),
   { s with upAcc := s.upAcc <<< s.upW, upCnt := s.upCnt - s.upW })

/-- `up_pop()`: unpack one value, or none for `EndOfStream`, where the bytes read stay consumed and their
bits stay in `UP_ACC` (R86). -/
def State.upPop (s : State) : Option Int × State :=
  match State.upFetch s.upW s with
  | (true, s') => (some s'.upTake.1, s'.upTake.2)
  | (false, s') => (none, s')

end Sys2Proof.Machine
end

