-- ==== Sys2Proof/Machine/BitpackCmds.lean ====
section
/-! DEFINITION. The packer and unpacker commands PKINIT, PKPUSH, PKFLUSH, UPINIT, UPPOP
(spec/40_bitpack.md sections 3 and 4). -/

namespace Sys2Proof.Machine

/-- `PKINIT w` (R82): the bytes of `OBUF` stay, with `OLEN = 0` none of them is readable. -/
def execPkinit (w : BitVec 8) (s : State) : Host.Outcome State Fault Refusal :=
  if widthLegal w = false then raise .badWidth s
  else finish 0 0 ({ s with olen := 0 }.pkInit w.toNat)

/-- `PKPUSH v` (R83): the space check comes before anything is written. -/
def execPkpush (v : Value) (s : State) : Host.Outcome State Fault Refusal :=
  if s.pkW = 0 then raise .notOpen s
  else if s.bufcap < s.olen + s.pushBytes then raise .bufferFull s
  else finish (BitVec.ofNat 8 s.pushBytes) (count32 (s.pkPush (pushValue v)).olen) (s.pkPush (pushValue v))

/-- `PKFLUSH` (R84). -/
def execPkflush (s : State) : Host.Outcome State Fault Refusal :=
  if s.pkW = 0 then raise .notOpen s
  else if s.bufcap < s.olen + s.flushBytes then raise .bufferFull s
  else finish (BitVec.ofNat 8 s.flushBytes) (count32 s.pkFlush.olen) s.pkFlush

/-- `UPINIT w, size` (R88): `IBUF` is not touched. -/
def execUpinit (w : BitVec 8) (size : Value) (s : State) : Host.Outcome State Fault Refusal :=
  if widthLegal w = false then raise .badWidth s
  else if s.bufcap < size.toNat then raise .badOperand s
  else finish 0 0 ({ s with ilen := size.toNat, iptr := 0 }.upInit w.toNat)

/-- `UPPOP` (R89): on `EndOfStream` the unpacker stays open and the bytes read stay consumed. -/
def execUppop (s : State) : Host.Outcome State Fault Refusal :=
  if s.upW = 0 then raise .notOpen s
  else match s.upPop with
    | (some v, t) => finish 0 (u32 v) t
    | (none, t) => raise .endOfStream t

end Sys2Proof.Machine
end

