-- ==== Sys2Proof/Machine/FramePipeline.lean ====
section
/-! DEFINITION. The steps of the compressor and of the decompressor (spec/41_codec.md sections 1 and 3). The
working buffers `D` and `A` are local lists (spec/10_state.md R28). -/

namespace Sys2Proof.Machine

/-- Step 1 at snake index `i`: `FIN[y][x] − CPREV[y][x]`, exact, for the pixel at that place of the snake
(R94, R95). -/
def State.deltaAt (s : State) (i : Nat) : Int :=
  let p := unsnake s.w i
  ((pixel s.fin s.w p.1 p.2).toNat : Int) - ((pixel s.cprev s.w p.1 p.2).toNat : Int)

/-- `D[0 .. N−1]`, the inter-frame deltas in snake order (R94, R95). -/
def State.deltas (s : State) : List Int := (List.range s.n).map s.deltaAt

/-- `A[i] = D[i+1] − D[i]`, one fewer than the deltas (R98). -/
def adjacent : List Int → List Int
  | d :: e :: ds => (e - d) :: adjacent (e :: ds)
  | _ => []

/-- `M = max |A[i]|`, 0 when there is none (R99). -/
def maxAbs (a : List Int) : Nat := a.foldl (fun m v => max m v.natAbs) 0

/-- `bitlen(m)`: 0 for 0, else `⌊log2 m⌋ + 1` (R100). -/
def bitlen (m : Nat) : Nat := if m = 0 then 0 else Nat.log2 m + 1

/-- Step 6: `w = bitlen(M) + 1`, clamped to `1..32` (R100). -/
def chooseWidth (m : Nat) : Nat := min 32 (max 1 (bitlen m + 1))

/-- The width of the frame in `FIN` against `CPREV` (R99, R100). -/
def State.frameWidth (s : State) : Nat := chooseWidth (maxAbs (adjacent s.deltas))

/-- The pixel of raster index `i` is in the interior: `1 ≤ y ≤ H−2` and `1 ≤ x ≤ W−2` (R97). -/
def interior (w h i : Nat) : Bool :=
  decide (1 ≤ i / w ∧ i / w + 2 ≤ h ∧ 1 ≤ i % w ∧ i % w + 2 ≤ w)

/-- The interior pixels of `FIN`, in raster order (R97). -/
def State.interiorPixels (s : State) : List Pixel :=
  ((List.range (s.h * s.w)).filter (interior s.w s.h)).map (Memory.read s.fin)

/-- `mn`: the minimum from `0xFFFF` over the interior (R97). -/
def minFrom (ps : List Pixel) : Pixel := ps.foldl (fun m c => if c.toNat < m.toNat then c else m) 0xFFFF

/-- `mx`: the maximum from `0x0000` over the interior (R97). -/
def maxFrom (ps : List Pixel) : Pixel := ps.foldl (fun m c => if m.toNat < c.toNat then c else m) 0x0000

/-- Step 3: `CPREV[y][x] <- FIN[y][x]` for every pixel (R96). -/
def State.updateCprev (s : State) : State :=
  { s with cprev := Memory.fill s.cprev (Memory.read s.fin) (s.h * s.w) }

/-- Step 7: the payload emitted into `OBUF` from index 0, the packer left closed (R102, R103). -/
def State.emitPayload (s : State) (d0 : Int) (a : List Int) (w : Nat) : State :=
  (State.pkPushAll ((State.emitAll { s with olen := 0 } (le32 d0)).pkInit w) a).pkFlush

/-- The compressor's pipeline on a configured engine, up to its response (R103). -/
def State.compressed (s : State) : State :=
  let t := s.updateCprev.emitPayload (s.deltas.headD 0) (adjacent s.deltas) s.frameWidth
  { t with
    cwidth := s.frameWidth, csize := t.olen
    minPix := minFrom s.interiorPixels, maxPix := maxFrom s.interiorPixels }

/-- Decompressor step 1: `D[0] = SLE32(IBUF[0], IBUF[1], IBUF[2], IBUF[3])` (R105). -/
def State.firstDelta (s : State) : Int :=
  sle32 (Memory.read s.ibuf 0) (Memory.read s.ibuf 1) (Memory.read s.ibuf 2) (Memory.read s.ibuf 3)

/-- Decompressor step 2: `k` more deltas after `d`, each `wrap_32` of the sum of the one before it and the
value popped; none when an `up_pop` raises `EndOfStream` (R106). -/
def State.popDeltas : Nat → Int → State → Option (List Int) × State
  | 0, _, s => (some [], s)
  | k + 1, d, s =>
    match s.upPop with
    | (none, s') => (none, s')
    | (some a, s') =>
      match State.popDeltas k (wrap 32 (d + a)) s' with
      | (r, s'') => (r.map (wrap 32 (d + a) :: ·), s'')

/-- `(DPREV[y][x] + D[snake(y, x)]) mod 2^16` at raster index `i` (R107). -/
def State.outPixel (s : State) (D : List Int) (i : Nat) : Pixel :=
  BitVec.ofInt 16 (((Memory.read s.dprev i).toNat : Int) + D.getD (snake s.w (i / s.w) (i % s.w)) 0)

/-- Decompressor step 3: every pixel of `FOUT` and of `DPREV` (R107). -/
def State.placeFrame (s : State) (D : List Int) : State :=
  { s with
    fout := Memory.fill s.fout (s.outPixel D) (s.h * s.w)
    dprev := Memory.fill s.dprev (s.outPixel D) (s.h * s.w) }

end Sys2Proof.Machine
end

