-- ==== Sys2Proof/Machine/CodecCmds.lean ====
section
/-! DEFINITION. The codec commands COMPRESS, DECOMPRESS, CINIT, DINIT (spec/41_codec.md sections 2 to 4). -/

namespace Sys2Proof.Machine

/-- `COMPRESS` (R103): past its one check it cannot fail. -/
def execCompress (s : State) : Host.Outcome State Fault Refusal :=
  if s.cfg = false then raise .notConfigured s
  else finish (BitVec.ofNat 8 s.compressed.cwidth) (count32 s.compressed.csize) s.compressed

/-- `DECOMPRESS w, size` (R108). No pixel is written before every delta is decoded (20_memory.md R50), and the
unpacker is closed on every path past the checks (R109). -/
def execDecompress (w : BitVec 8) (size : Value) (s : State) : Host.Outcome State Fault Refusal :=
  if s.cfg = false then raise .notConfigured s
  else if widthLegal w = false then raise .badWidth s
  else if s.bufcap < size.toNat then raise .badOperand s
  else if size.toNat < 4 then raise .endOfStream { s with ilen := size.toNat, iptr := size.toNat }.upClose
  else match State.popDeltas (s.n - 1) s.firstDelta ({ s with ilen := size.toNat, iptr := 4 }.upInit w.toNat) with
    | (none, t) => raise .endOfStream t.upClose
    | (some ds, t) => finish 0 (count32 t.iptr) (t.placeFrame (s.firstDelta :: ds)).upClose

/-- `CINIT` (R112): `FIN`, `OBUF` and the packer are not touched. -/
def execCinit (s : State) : Host.Outcome State Fault Refusal :=
  if s.cfg = false then raise .notConfigured s
  else finish 0 0
    { s with
      cprev := Memory.fill s.cprev (fun _ => 0) (s.h * s.w)
      cwidth := 0, csize := 0, minPix := 0xFFFF, maxPix := 0x0000 }

/-- `DINIT` (R113): `FOUT`, `IBUF` and the unpacker are not touched. -/
def execDinit (s : State) : Host.Outcome State Fault Refusal :=
  if s.cfg = false then raise .notConfigured s
  else finish 0 0 { s with dprev := Memory.fill s.dprev (fun _ => 0) (s.h * s.w) }

end Sys2Proof.Machine
end

