-- ==== Sys2Proof/Machine/Flags.lean ====
section
/-! DEFINITION. The three flags, which are views of state, and the thirteen read-only status registers
(spec/10_state.md R18, R30, R31, R32, R33). -/

namespace Sys2Proof.Machine

/-- `PKOPEN = (PK_W ≠ 0)`: the packer is open (R18, R30). -/
def State.pkOpen (s : State) : Bool := decide (s.pkW ≠ 0)

/-- `UPOPEN = (UP_W ≠ 0)`: the unpacker is open (R18, R30). -/
def State.upOpen (s : State) : Bool := decide (s.upW ≠ 0)

/-- Register 0, `ID`: the constant `0x43505456` (R32, R33; log 7). -/
def idReg : Value := 0x43505456#32

/-- Register 1, `STATUS`: `LASTERR` 15:8, `UPOPEN` 2, `PKOPEN` 1, `CFG` 0, every other bit 0 (R32). -/
def State.statusReg (s : State) : Value :=
  0#16 ++ s.lastErr ++ 0#5 ++ BitVec.ofBool s.upOpen ++ BitVec.ofBool s.pkOpen ++ BitVec.ofBool s.cfg

/-- Register 2, `DIM`: `H` 31:16, `W` 15:0 (R32). -/
def State.dimReg (s : State) : Value := BitVec.ofNat 16 s.h ++ BitVec.ofNat 16 s.w

/-- Register 4, `CWIDTH`: `CWIDTH` 7:0 (R32). -/
def State.cwidthReg (s : State) : Value := 0#24 ++ BitVec.ofNat 8 s.cwidth

/-- Register 6, `EXTREMES`: `MAXPIX` 31:16, `MINPIX` 15:0 (R32). -/
def State.extremesReg (s : State) : Value := s.maxPix ++ s.minPix

/-- Registers 7 and 9, `PKSTAT` and `UPSTAT`: the bit count 13:8, the width 5:0, every other bit 0 (R32). -/
def streamStatReg (width cnt : Nat) : Value :=
  0#18 ++ BitVec.ofNat 6 cnt ++ 0#2 ++ BitVec.ofNat 6 width

/-- Register 12, `MAXN`: `min(MAXN, 2^32 − 1)` (R32, R33). -/
def State.maxNReg (s : State) : Value := count32 (min s.maxN (2 ^ 32 - 1))

/-- The value of status register `n`, a function of the state alone (R31, R32); a number above 12 is
reserved and names no register. -/
def State.statusRegister (s : State) (n : Nat) : Option Value :=
  match n with
  | 0 => some idReg
  | 1 => some s.statusReg
  | 2 => some s.dimReg
  | 3 => some (count32 s.n)
  | 4 => some s.cwidthReg
  | 5 => some (count32 s.csize)
  | 6 => some s.extremesReg
  | 7 => some (streamStatReg s.pkW s.pkCnt)
  | 8 => some (count32 s.olen)
  | 9 => some (streamStatReg s.upW s.upCnt)
  | 10 => some (count32 s.iptr)
  | 11 => some (count32 s.ilen)
  | 12 => some s.maxNReg
  | _ => none

end Sys2Proof.Machine
end

