-- ==== Sys2Proof/Machine/SystemCmds.lean ====
section
/-! DEFINITION. The system commands RESET, CONFIG, RDREG and the buffer-access commands WRPIX, RDPIX, WRIB,
RDOB (spec/42_system_and_buffers.md). -/

namespace Sys2Proof.Machine

/-- `RESET` (R119). -/
def execReset (s : State) : Host.Outcome State Fault Refusal := finish 0 0 s.clear

/-- `CONFIG W, H` (R120): the product is taken exactly; a failing CONFIG changes nothing but `LASTERR`. -/
def execConfig (w h : BitVec 16) (s : State) : Host.Outcome State Fault Refusal :=
  if w.toNat = 0 ∨ h.toNat = 0 then raise .badOperand s
  else if s.maxN < w.toNat * h.toNat then raise .badOperand s
  else finish 0 0 { s.clear with w := w.toNat, h := h.toNat, n := w.toNat * h.toNat, cfg := true }

/-- `RDREG n` (R121): the value is taken before `LASTERR` is written. -/
def execRdreg (n : Value) (s : State) : Host.Outcome State Fault Refusal :=
  match s.statusRegister n.toNat with
  | none => raise .badOperand s
  | some v => finish 0 v s

/-- `WRPIX y, x, v` (R122). -/
def execWrpix (y x : BitVec 16) (v : Pixel) (s : State) : Host.Outcome State Fault Refusal :=
  if s.cfg = false then raise .notConfigured s
  else if s.pixelInRange y x = false then raise .badOperand s
  else finish 0 0 { s with fin := Memory.write s.fin (raster s.w y.toNat x.toNat) v }

/-- `RDPIX sel, y, x` (R123): the selector is checked before the coordinates. -/
def execRdpix (sel : BitVec 8) (y x : BitVec 16) (s : State) : Host.Outcome State Fault Refusal :=
  if s.cfg = false then raise .notConfigured s
  else match s.selected sel with
    | none => raise .badOperand s
    | some pb =>
      if s.pixelInRange y x = false then raise .badOperand s
      else finish 0 ((pixel pb s.w y.toNat x.toNat).zeroExtend 32) s

/-- `WRIB i, b` (R124): legal in every state, configured or not. -/
def execWrib (i : Value) (b : Byte) (s : State) : Host.Outcome State Fault Refusal :=
  if s.bufcap ≤ i.toNat then raise .badOperand s
  else finish 0 0 { s with ibuf := Memory.write s.ibuf i.toNat b }

/-- `RDOB i` (R125): only bytes already emitted can be read. -/
def execRdob (i : Value) (s : State) : Host.Outcome State Fault Refusal :=
  if s.olen ≤ i.toNat then raise .badOperand s
  else finish 0 ((Memory.read s.obuf i.toNat).zeroExtend 32) s

end Sys2Proof.Machine
end

