-- ==== Sys2Proof/Machine/Dispatch.lean ====
section
/-! DEFINITION. One arm per command: the call of its meaning (spec/30_encoding.md R64, R68). -/

namespace Sys2Proof.Machine

def exec (i : Instr) (s : State) : Host.Outcome State Fault Refusal :=
  match i with
  | .reset => Sys2Proof.Machine.execReset s
  | .config w h => Sys2Proof.Machine.execConfig w h s
  | .cinit => Sys2Proof.Machine.execCinit s
  | .dinit => Sys2Proof.Machine.execDinit s
  | .rdreg n => Sys2Proof.Machine.execRdreg n s
  | .wrpix y x v => Sys2Proof.Machine.execWrpix y x v s
  | .rdpix sel y x => Sys2Proof.Machine.execRdpix sel y x s
  | .wrib j b => Sys2Proof.Machine.execWrib j b s
  | .rdob j => Sys2Proof.Machine.execRdob j s
  | .pkinit w => Sys2Proof.Machine.execPkinit w s
  | .pkpush v => Sys2Proof.Machine.execPkpush v s
  | .pkflush => Sys2Proof.Machine.execPkflush s
  | .upinit w size => Sys2Proof.Machine.execUpinit w size s
  | .uppop => Sys2Proof.Machine.execUppop s
  | .compress => Sys2Proof.Machine.execCompress s
  | .decompress w size => Sys2Proof.Machine.execDecompress w size s

end Sys2Proof.Machine
end

