-- ==== Sys2Proof/Machine/Command.lean ====
section
/-! DEFINITION. What the engine does with one input of the host: a command word (spec/30_encoding.md R68) or
the reset input (spec/70_reset_and_hazards.md R151). -/

namespace Sys2Proof.Machine

/-- A command word: an illegal one answers `IllegalCommand`, any other runs its command's rule (R68). -/
def runCommand (c : Word) (s : State) : Host.Outcome State Fault Refusal :=
  match decode c with
  | .error _ => illegalCommand s
  | .ok i => exec i s

/-- The reset input: the effect of `RESET` on the state, and no response (R151; log 12). -/
def resetInput (s : State) : Host.Outcome State Fault Refusal := .next s.clear

/-- One input of the host. -/
def runInput (e : HostInput) (s : State) : Host.Outcome State Fault Refusal :=
  match e with
  | .command c => runCommand c s
  | .resetInput => resetInput s

/-- The engine's next step: it takes the next input of the host and runs it to its end; with no input it is
idle and nothing changes (R61; 00_scope.md R5; log 4). -/
def stepInput (s : State) : Host.Outcome State Fault Refusal :=
  match s.inputs with
  | [] => .next s
  | e :: rest => runInput e { s with inputs := rest }

/-- `s` with a command word presented before everything else the host will present. -/
def present (s : State) (c : Word) : State := { s with inputs := .command c :: s.inputs }

end Sys2Proof.Machine
end

