-- ==== Sys2Proof/Machine/Step.lean ====
section
/-! DEFINITION. One step of the machine, one whole command (spec/00_scope.md R5), and the placing of a
command where the next step takes it. -/

namespace Sys2Proof.Machine

/-- One step (00_scope.md R5; 30_encoding.md R68). -/
def step (s : State) : Host.Outcome State Fault Refusal := stepInput s

/-- `s` with an instruction's word presented as the host's next command (log 5): the DBE fetches from no
storage (10_state.md R14), so presenting it is all the next step needs. -/
def State.withFetchWord (s : State) (nbits w : Nat) : State :=
  present s (BitVec.ofNat 64 (w % 2 ^ nbits))

end Sys2Proof.Machine
end

