-- ==== Sys2Proof/Machine/Assembler.lean ====
section
/-! DEFINITION. The assembler syntax (spec/30_encoding.md R69): one command per line, the mnemonic in capitals,
its operands separated by commas in the order of R64, decimal or `0x` numbers, names for the selectors and
registers, a comment from `;` on. What R69 leaves open is log 9. -/

namespace Sys2Proof.Machine

/-- Why a line does not assemble. -/
inductive AsmError where
  /-- The first word is no mnemonic of R64. -/
  | unknownMnemonic
  /-- An operand is no number and no name this command takes. -/
  | badNumber
  /-- A number does not fit its field of the command word. -/
  | doesNotFit
  /-- Too few or too many operands. -/
  | operandCount
deriving DecidableEq, Repr

/-- A blank between words. -/
def isBlank (c : Char) : Bool := c == ' ' || c == '\t' || c == '\r'

/-- A word without the blanks around it. -/
def trimBlanks (cs : List Char) : List Char := ((cs.dropWhile isBlank).reverse.dropWhile isBlank).reverse

/-- A list cut at every `sep`. -/
def cutAt (sep : Char) : List Char → List (List Char)
  | [] => [[]]
  | c :: cs =>
    if c = sep then [] :: cutAt sep cs
    else match cutAt sep cs with
      | [] => [[c]]
      | w :: ws => (c :: w) :: ws

/-- The value of one digit in any base up to 16. -/
def digitOf (c : Char) : Option Nat :=
  if '0' ≤ c ∧ c ≤ '9' then some (c.toNat - 48)
  else if 'A' ≤ c ∧ c ≤ 'F' then some (c.toNat - 55)
  else if 'a' ≤ c ∧ c ≤ 'f' then some (c.toNat - 87)
  else none

/-- Digits of a base read as a number, on top of what was read before. -/
def digitsFrom (base acc : Nat) : List Char → Option Nat
  | [] => some acc
  | c :: cs =>
    match digitOf c with
    | some d => if d < base then digitsFrom base (acc * base + d) cs else none
    | none => none

/-- A number: decimal, or hexadecimal with `0x`. -/
def natOf : List Char → Option Nat
  | [] => none
  | '0' :: 'x' :: d :: ds => digitsFrom 16 0 (d :: ds)
  | cs => digitsFrom 10 0 cs

/-- The selector names of `RDPIX` (R69). -/
def selectorNames : List (String × Nat) := [("FOUT", 0), ("FIN", 1), ("CPREV", 2), ("DPREV", 3)]

/-- The register names of `RDREG` (R69; 10_state.md R32). -/
def registerNames : List (String × Nat) :=
  [("ID", 0), ("STATUS", 1), ("DIM", 2), ("NPIX", 3), ("CWIDTH", 4), ("CSIZE", 5), ("EXTREMES", 6)] ++
  [("PKSTAT", 7), ("OLEN", 8), ("UPSTAT", 9), ("IPTR", 10), ("ILEN", 11), ("MAXN", 12)]

/-- An operand of a `bits`-bit field that may be written by one of some names. -/
def fieldNamed (names : List (String × Nat)) (bits : Nat) (cs : List Char) : Except AsmError (BitVec bits) :=
  match (match names.lookup (String.ofList cs) with | some m => some m | none => natOf cs) with
  | none => .error .badNumber
  | some m => if m < 2 ^ bits then .ok (BitVec.ofNat bits m) else .error .doesNotFit

/-- An unsigned operand of a `bits`-bit field. -/
def field (bits : Nat) (cs : List Char) : Except AsmError (BitVec bits) := fieldNamed [] bits cs

/-- The operand of `PKPUSH`, the only signed one: an optional leading `-` before a decimal (R69). -/
def signedField : List Char → Except AsmError Value
  | '-' :: cs =>
    match digitsFrom 10 0 cs with
    | none => .error .badNumber
    | some m => if cs = [] then .error .badNumber
                else if m ≤ 2 ^ 31 then .ok (BitVec.ofInt 32 (-(m : Int))) else .error .doesNotFit
  | cs => field 32 cs

/-- The command of a mnemonic and its operands, in the order of R64. -/
def assembleOperands (mnemonic : String) (ops : List (List Char)) : Except AsmError Instr :=
  match mnemonic, ops with
  | "RESET", [] => .ok .reset
  | "CONFIG", [w, h] => return .config (← field 16 w) (← field 16 h)
  | "CINIT", [] => .ok .cinit
  | "DINIT", [] => .ok .dinit
  | "RDREG", [n] => return .rdreg (← fieldNamed registerNames 32 n)
  | "WRPIX", [y, x, v] => return .wrpix (← field 16 y) (← field 16 x) (← field 16 v)
  | "RDPIX", [s, y, x] => return .rdpix (← fieldNamed selectorNames 8 s) (← field 16 y) (← field 16 x)
  | "WRIB", [i, b] => return .wrib (← field 32 i) (← field 8 b)
  | "RDOB", [i] => return .rdob (← field 32 i)
  | "PKINIT", [w] => return .pkinit (← field 8 w)
  | "PKPUSH", [v] => return .pkpush (← signedField v)
  | "PKFLUSH", [] => .ok .pkflush
  | "UPINIT", [w, s] => return .upinit (← field 8 w) (← field 32 s)
  | "UPPOP", [] => .ok .uppop
  | "COMPRESS", [] => .ok .compress
  | "DECOMPRESS", [w, s] => return .decompress (← field 8 w) (← field 32 s)
  | _, _ =>
    if ["RESET", "CONFIG", "CINIT", "DINIT", "RDREG", "WRPIX", "RDPIX", "WRIB"].contains mnemonic ||
       ["RDOB", "PKINIT", "PKPUSH", "PKFLUSH", "UPINIT", "UPPOP", "COMPRESS", "DECOMPRESS"].contains mnemonic
    then .error .operandCount else .error .unknownMnemonic

/-- One line of source: the command it stands for, or none for a line that is empty but for a comment (R69). -/
def assembleLine (line : String) : Except AsmError (Option Instr) :=
  let cs := trimBlanks (line.toList.takeWhile (· ≠ ';'))
  if cs = [] then .ok none
  else
    let rest := trimBlanks (cs.dropWhile (!isBlank ·))
    let ops := if rest = [] then [] else (cutAt ',' rest).map trimBlanks
    (assembleOperands (String.ofList (cs.takeWhile (!isBlank ·))) ops).map some

end Sys2Proof.Machine
end

