-- ==== Sys2Proof/Machine/Pseudo.lean ====
section
/-! DEFINITION. Command sequences and the seven pseudo-instructions (spec/30_encoding.md R61, R70): each
expands to commands, none is a command of its own. -/

namespace Sys2Proof.Machine

/-- A sequence of commands run one after another, each in the state the one before left (20_memory.md R49). -/
def execList : List Instr → State → Host.Outcome State Fault Refusal
  | [], s => .next s
  | i :: is, s =>
    match exec i s with
    | .next t => execList is t
    | .fault r => .fault r
    | .refused r => .refused r

/-- The pseudo-instructions of R70 with their operands. -/
inductive Pseudo where
  /-- `PACK w, [s_0, …]`. -/
  | pack (w : BitVec 8) (S : List Value)
  /-- `UNPACK w, size, n`. -/
  | unpack (w : BitVec 8) (size : Value) (n : Nat)
  /-- `LDBYTES [b_0, …]`. -/
  | ldbytes (bs : List Byte)
  /-- `LDFRAME F`, the frame as its rows. -/
  | ldframe (F : List (List Pixel))
  /-- `RDPAYLOAD`, of a payload of `csize` bytes. -/
  | rdpayload (csize : Nat)
  /-- `RDFRAME sel`, of a frame of `h` rows of `w` pixels. -/
  | rdframe (sel : BitVec 8) (w h : Nat)
  /-- `NEWFILE`. -/
  | newfile
deriving DecidableEq, Repr

/-- The expansion column of R70. An index the operand field cannot hold is taken modulo the field's size, 2^32 for
the bytes of `LDBYTES` and `RDPAYLOAD`, 2^16 for the rows and columns of `LDFRAME` and `RDFRAME`: R70 asks for such
a command and no word has it (DESIGN CHOICE, unsafe there, log 14). -/
def Pseudo.expand : Pseudo → List Instr
  | .pack w S => [.pkinit w] ++ S.map .pkpush ++ [.pkflush]
  | .unpack w size n => .upinit w size :: List.replicate n .uppop
  | .ldbytes bs => bs.zipIdx.map fun p => .wrib (BitVec.ofNat 32 p.2) p.1
  | .ldframe F => F.zipIdx.flatMap fun r => r.1.zipIdx.map fun p =>
      .wrpix (BitVec.ofNat 16 r.2) (BitVec.ofNat 16 p.2) p.1
  | .rdpayload csize => (List.range csize).map fun i => .rdob (BitVec.ofNat 32 i)
  | .rdframe sel w h => (List.range h).flatMap fun y => (List.range w).map fun x =>
      .rdpix sel (BitVec.ofNat 16 y) (BitVec.ofNat 16 x)
  | .newfile => [.cinit, .dinit]

end Sys2Proof.Machine
end

