-- ==== Sys2Proof/Safety.lean ====
section
/-! DEFINITION. What a good state is, in the terms claims use: the ranges of section 1 of spec/10_state.md and
the relations its rules state "always" and "between commands"; and what a good step is. -/

namespace Sys2Proof.Machine

/-- `1 ≤ MAXN ≤ 65535 * 65535` (00_scope.md R8). -/
def State.ParamInv (s : State) : Prop := 1 ≤ s.maxN ∧ s.maxN ≤ Config.maxNLimit

/-- The geometry (10_state.md R15). -/
def State.GeometryInv (s : State) : Prop :=
  (s.cfg = true → 1 ≤ s.w ∧ s.w ≤ 65535 ∧ 1 ≤ s.h ∧ s.h ≤ 65535 ∧ s.n = s.w * s.h ∧ s.n ≤ s.maxN) ∧
  (s.cfg = false → s.w = 0 ∧ s.h = 0 ∧ s.n = 0)

/-- The `PK_CNT` valid bits of `PK_ACC` read as a number, oldest bit most significant (10_state.md R17). -/
def State.pkPending (s : State) : Nat := s.pkAcc.toNat / 2 ^ (40 - s.pkCnt)

/-- The `UP_CNT` valid bits of `UP_ACC` read as a number, oldest bit most significant (10_state.md R20). -/
def State.upPending (s : State) : Nat := s.upAcc.toNat / 2 ^ (40 - s.upCnt)

/-- The packer between commands (10_state.md R16 to R19; 40_bitpack.md R92): the count is `(k*w) mod 8` for the
`k` values pushed, the bits below the valid ones are 0, a closed packer is empty, `OLEN ≤ BUFCAP`. -/
def State.PackerInv (s : State) : Prop :=
  s.pkW ≤ 32 ∧ (∃ k, s.pkCnt = k * s.pkW % 8) ∧ s.pkAcc.toNat % 2 ^ (40 - s.pkCnt) = 0 ∧ s.olen ≤ s.bufcap

/-- The unpacker between commands (10_state.md R20, R21; 40_bitpack.md R87): at most 7 valid bits, or after an
`EndOfStream` fewer than `UP_W`; the bits below the valid ones are 0; a closed unpacker is empty;
`IPTR ≤ ILEN ≤ BUFCAP`; whole bytes were read, so the count and the `k` values returned make a multiple of 8. -/
def State.UnpackerInv (s : State) : Prop :=
  s.upW ≤ 32 ∧ (s.upCnt ≤ 7 ∨ s.upCnt < s.upW) ∧ (s.upW = 0 → s.upCnt = 0) ∧
  s.upAcc.toNat % 2 ^ (40 - s.upCnt) = 0 ∧ s.iptr ≤ s.ilen ∧ s.ilen ≤ s.bufcap ∧
  ∃ k, (s.upCnt + k * s.upW) % 8 = 0

/-- The six buffers are in canonical form and end where the spec says (20_memory.md R35, R37). -/
def State.BufferInv (s : State) : Prop :=
  (s.obuf.wf = true ∧ s.obuf.below s.bufcap = true) ∧ (s.ibuf.wf = true ∧ s.ibuf.below s.bufcap = true) ∧
  (s.fin.wf = true ∧ s.fin.below s.n = true) ∧ (s.cprev.wf = true ∧ s.cprev.below s.n = true) ∧
  (s.dprev.wf = true ∧ s.dprev.below s.n = true) ∧ (s.fout.wf = true ∧ s.fout.below s.n = true)

/-- The result registers (10_state.md R24, R25, R29; 41_codec.md R101): `CWIDTH ≤ 18`, `CSIZE ≤ BUFCAP`,
`CWIDTH = 0` means no frame yet, `MINPIX > MAXPIX` only at the empty pair, `LASTERR` a code of R133. -/
def State.ResultInv (s : State) : Prop :=
  s.cwidth ≤ 18 ∧ s.csize ≤ s.bufcap ∧
  (s.cwidth = 0 → s.csize = 0 ∧ s.minPix = 0xFFFF ∧ s.maxPix = 0x0000) ∧
  (s.minPix.toNat ≤ s.maxPix.toNat ∨ (s.minPix = 0xFFFF ∧ s.maxPix = 0x0000)) ∧ s.lastErr.toNat ≤ 7

/-- Everything the spec says of the state between commands. -/
structure State.Inv (s : State) : Prop where
  param : s.ParamInv
  geometry : s.GeometryInv
  packer : s.PackerInv
  unpacker : s.UnpackerInv
  buffers : s.BufferInv
  results : s.ResultInv

/-- A state that a step goes on from: it stops neither in a fault nor in a refusal. -/
def State.Goes (s : State) : Prop := ∃ t, step s = .next t

end Sys2Proof.Machine
end

