-- ==== Sys2Proof/WellFormed.lean ====
section
/-! DEFINITION. Which commands have only legal operands, as far as the word alone can tell
(spec/30_encoding.md R65, spec/60_exceptions.md R135, R138). Every command has an encoding, whatever its
operands; one that is not well-formed has an operand for which its own rule names an error in every state
that passes the earlier checks, and it runs to that error. -/

namespace Sys2Proof

/-- A width operand is legal in `1..32`, "any other value gives BadWidth" (R65, R135). -/
def widthWellFormed (w : BitVec 8) : Bool := decide (1 ≤ w.toNat ∧ w.toNat ≤ 32)

/-- The static operand checks, command by command: dimensions are not 0 (R120), a register number is at
most 12 (R121), a selector is at most 3 (R123), a width is in `1..32` (R82, R88, R108). -/
def Instr.wellFormed : Instr → Bool
  | .reset => true
  | .config w h => decide (1 ≤ w.toNat ∧ 1 ≤ h.toNat)
  | .cinit => true
  | .dinit => true
  | .rdreg n => decide (n.toNat ≤ 12)
  | .wrpix _ _ _ => true
  | .rdpix sel _ _ => decide (sel.toNat ≤ 3)
  | .wrib _ _ => true
  | .rdob _ => true
  | .pkinit w => widthWellFormed w
  | .pkpush _ => true
  | .pkflush => true
  | .upinit w _ => widthWellFormed w
  | .uppop => true
  | .compress => true
  | .decompress w _ => widthWellFormed w

end Sys2Proof
end

