-- ==== Sys2Proof/Certificates/Slice0/Obligations.lean ====
section
/-! DEFINITION. The statements for the provers, one per obligation, and the few terms they are said in. -/

open Sys2Proof Sys2Proof.Machine

/-! ### Terms of the statements -/

/-- The number each status register holds, by the table of spec/10_state.md R32. -/
def Sys2Proof.Claims.registerNumber (s : State) : Nat → Nat
  | 0 => 0x43505456
  | 1 => s.cfg.toNat + 2 * (if s.pkW ≠ 0 then 1 else 0) + 4 * (if s.upW ≠ 0 then 1 else 0) + 256 * s.lastErr.toNat
  | 2 => s.w + 65536 * s.h
  | 3 => s.n
  | 4 => s.cwidth
  | 5 => s.csize
  | 6 => s.minPix.toNat + 65536 * s.maxPix.toNat
  | 7 => s.pkW + 256 * s.pkCnt
  | 8 => s.olen % 2 ^ 32
  | 9 => s.upW + 256 * s.upCnt
  | 10 => s.iptr % 2 ^ 32
  | 11 => s.ilen % 2 ^ 32
  | _ => min s.maxN (2 ^ 32 - 1)

/-- The bytes `UPPOP` has to read for a value: the least number that makes `UP_W` bits valid. -/
def Sys2Proof.Claims.popNeeds (s : State) : Nat := (s.upW - s.upCnt + 7) / 8

/-- The commands that need a geometry (spec/60_exceptions.md R136). -/
def Sys2Proof.Claims.needsGeometry : Instr → Bool
  | .cinit => true
  | .dinit => true
  | .wrpix _ _ _ => true
  | .rdpix _ _ _ => true
  | .compress => true
  | .decompress _ _ => true
  | _ => false

/-- `RESET` and `CONFIG`, which write every element of state (spec/10_state.md R34). -/
def Sys2Proof.Claims.clearsAll : Instr → Bool
  | .reset => true
  | .config _ _ => true
  | _ => false

/-- The commands of the packer (spec/10_state.md R34). -/
def Sys2Proof.Claims.usesPacker : Instr → Bool
  | .pkinit _ => true
  | .pkpush _ => true
  | .pkflush => true
  | .compress => true
  | _ => false

/-- The commands of the unpacker (spec/10_state.md R34). -/
def Sys2Proof.Claims.usesUnpacker : Instr → Bool
  | .upinit _ _ => true
  | .uppop => true
  | .decompress _ _ => true
  | _ => false

/-- The delta of snake index `i` that the payload in `IBUF[0 .. size−1]` holds at width `w`: the first delta
plus the first `i` packed values (spec/41_codec.md R105, R106, without the wrap that R115 shows invisible). -/
def Sys2Proof.Claims.decodedDelta (s : State) (w size i : Nat) : Int :=
  s.firstDelta + (((unpack w (s.n - 1) (s.ibuf.slice 4 (size - 4))).getD []).take i).sum

open Sys2Proof.Claims

/-! ### Encodings -/

/-- Decode and encode agree on every command, every operand at every value its field admits
(30_encoding.md R62 to R65). -/
def Obligations.DecodeOfEncodeIsTheCommand : Prop := ∀ i : Instr, decode (encode i) = .ok i

/-- A legal word has one meaning: encoding what it decodes to gives it back (R62 to R65). -/
def Obligations.EncodeOfDecodedIsTheWord : Prop := ∀ (c : Word) (i : Instr), decode c = .ok i → encode i = c

/-- A word is legal exactly when `c & mask = match` for a row of the opcode table (R63, R64, R67). -/
def Obligations.LegalWordsAreTheTableRows : Prop :=
  ∀ c : Word, (∃ i, decode c = .ok i) ↔ ∃ r ∈ opcodeRows, c &&& r.2.mask = opMatch r.1

/-- One word of every command, the words of R69's examples and of the command rules among them, decodes to the
command it stands for; an unassigned opcode and a non-zero must-be-zero field do not decode (R67). -/
def Obligations.WrittenWordsDecode : Prop :=
  decode 0x0200000000030004 = .ok (.config 4 3) ∧ decode 0x1004020000010002 = .ok (.wrpix 1 2 1026) ∧
  decode 0x21000000FFFFFFF0 = .ok (.pkpush (-16)) ∧ decode 0x2000000500000000 = .ok (.pkinit 5) ∧
  decode 0x3100000300000009 = .ok (.decompress 3 9) ∧ decode 0x1100000000020003 = .ok (.rdpix 0 2 3) ∧
  decode 0x1200003F00000004 = .ok (.wrib 4 0x3F) ∧ decode 0x0800000000000001 = .ok (.rdreg 1) ∧
  decode 0x0100000000000000 = .ok .reset ∧ decode 0x0300000000000000 = .ok .cinit ∧
  decode 0x0400000000000000 = .ok .dinit ∧ decode 0x1300000000000005 = .ok (.rdob 5) ∧
  decode 0x2200000000000000 = .ok .pkflush ∧ decode 0x2800000500000005 = .ok (.upinit 5 5) ∧
  decode 0x2900000000000000 = .ok .uppop ∧ decode 0x3000000000000000 = .ok .compress ∧
  decode 0x0000000000000000 = .error (.unassignedOpcode 0) ∧
  decode 0x2101000000000005 = .error (.mustBeZero 0x21)

/-- The assembler's examples of R69. -/
def Obligations.AssemblerExamples : Prop :=
  (assembleLine "CONFIG 4, 3").map (·.map encode) = .ok (some 0x0200000000030004) ∧
  (assembleLine "WRPIX 1, 2, 1026").map (·.map encode) = .ok (some 0x1004020000010002) ∧
  (assembleLine "PKPUSH -16").map (·.map encode) = .ok (some 0x21000000FFFFFFF0) ∧
  (assembleLine "PKINIT 5").map (·.map encode) = .ok (some 0x2000000500000000) ∧
  (assembleLine "DECOMPRESS 3, 9").map (·.map encode) = .ok (some 0x3100000300000009) ∧
  (assembleLine "RDPIX FOUT, 2, 3").map (·.map encode) = .ok (some 0x1100000000020003) ∧
  (assembleLine "WRIB 4, 0x3F").map (·.map encode) = .ok (some 0x1200003F00000004) ∧
  (assembleLine "RDREG STATUS").map (·.map encode) = .ok (some 0x0800000000000001)

/-- The response word is `(err << 56) | (aux << 32) | val`, with the codes of the table (30_encoding.md R66,
60_exceptions.md R133). -/
def Obligations.ResponseWordIsErrAuxVal : Prop :=
  (∀ (e : Err) (aux : BitVec 8) (val : Value),
    (responseWord e aux val).toNat = e.code.toNat * 2 ^ 56 + aux.toNat * 2 ^ 32 + val.toNat) ∧
  [Err.ok, .endOfStream, .badWidth, .notConfigured, .notOpen, .badOperand, .bufferFull, .illegalCommand].map
    (fun e => e.code.toNat) = [0, 1, 2, 3, 4, 5, 6, 7]

/-- The laws of the field encoding (30_encoding.md R55): (a) `enc_w(dec_w(x)) = x`; (b)
`dec_w(enc_w(v)) = wrap_w(v)`, which is `v` exactly when `v` fits; (c) only the low `w` bits of `v` matter. -/
def Obligations.EncDecLaws : Prop :=
  ∀ w : Nat, 1 ≤ w → w ≤ 32 →
    (∀ x : Nat, x < 2 ^ w → enc w (dec w x) = x) ∧
    (∀ v : Int, dec w (enc w v) = wrap w v ∧ (dec w (enc w v) = v ↔ -(2 ^ (w - 1) : Nat) ≤ v ∧ v < (2 ^ (w - 1) : Nat))) ∧
    (∀ v : Int, enc w v = enc w ((u32 v).toNat : Int)) ∧
    (∀ v v' : Int, v % (2 ^ w : Nat) = v' % (2 ^ w : Nat) → enc w v = enc w v')

/-- `LE32` puts the least significant byte first and `SLE32` is its inverse on i32 (30_encoding.md R57). -/
def Obligations.SleOfLeIsTheValue : Prop :=
  ∀ v : Int, sle32 (le32Byte v 0) (le32Byte v 1) (le32Byte v 2) (le32Byte v 3) = wrap 32 v ∧
    (-(2 ^ 31 : Nat) ≤ v → v < (2 ^ 31 : Nat) →
      sle32 (le32Byte v 0) (le32Byte v 1) (le32Byte v 2) (le32Byte v 3) = v) ∧
    ∀ i, i < 4 → ((le32Byte v i).toNat : Int) = v / (2 ^ (8 * i) : Nat) % 256

/-- The length of a packed sequence (40_bitpack.md R76): the least number of bytes that holds `n*w` bits. -/
def Obligations.PackLength : Prop :=
  ∀ (w : Nat) (S : List Int), (pack w S).length = (S.length * w + 7) / 8 ∧ pack w [] = []

/-- The round trip of the sequence functions (40_bitpack.md R75). -/
def Obligations.UnpackOfPackIsTheSequence : Prop :=
  ∀ (w : Nat) (S : List Int), 1 ≤ w → w ≤ 32 →
    unpack w S.length (pack w S) = some (S.map (wrap w)) ∧
    ((∀ v ∈ S, -(2 ^ (w - 1) : Nat) ≤ v ∧ v < (2 ^ (w - 1) : Nat)) → unpack w S.length (pack w S) = some S)

/-- `snake` is a bijection onto `0 .. N−1` with the inverse of R41, and neighbours on the snake are neighbours in
the frame (20_memory.md R40, R41). -/
def Obligations.SnakeIsABijectionOfNeighbours : Prop :=
  ∀ w h : Nat, 1 ≤ w →
    (∀ y x, y < h → x < w → snake w y x < w * h ∧ unsnake w (snake w y x) = (y, x)) ∧
    (∀ i, i < w * h → (unsnake w i).1 < h ∧ (unsnake w i).2 < w ∧ snake w (unsnake w i).1 (unsnake w i).2 = i) ∧
    (∀ i, i + 1 < w * h →
      ((unsnake w i).1 = (unsnake w (i + 1)).1 ∧
        ((unsnake w i).2 + 1 = (unsnake w (i + 1)).2 ∨ (unsnake w (i + 1)).2 + 1 = (unsnake w i).2)) ∨
      ((unsnake w i).1 + 1 = (unsnake w (i + 1)).1 ∧ (unsnake w i).2 = (unsnake w (i + 1)).2))

/-! ### Steps and the whole machine -/

/-- A step runs the decoded command on the state without the word (30_encoding.md R68). That the words the host will
present stand in a list of State is the model's choice (log 2), and so is the second clause: `withFetchWord`
presents a command before the other inputs, so that the very next step runs it (log 5). -/
def Obligations.StepRunsTheDecodedCommand : Prop :=
  (∀ (s : State) (c : Word) (rest : List HostInput) (i : Instr),
    s.inputs = .command c :: rest → decode c = .ok i → step s = exec i { s with inputs := rest }) ∧
  (∀ (s : State) (i : Instr), step (s.withFetchWord 64 (encode i).toNat) = exec i s)

/-- An illegal word changes nothing but `LASTERR` and returns `IllegalCommand` (30_encoding.md R67,
60_exceptions.md R140). -/
def Obligations.IllegalWordChangesOnlyLasterr : Prop :=
  ∀ (s : State) (c : Word) (rest : List HostInput) (e : DecodeError),
    s.inputs = .command c :: rest → decode c = .error e →
    step s = .next { s with inputs := rest, lastErr := 7, trace := s.trace ++ [0x0700000000000000] }

/-- The reset input puts every element of the spec's state at its reset value, whatever the state before, and
with no input nothing happens (70_reset_and_hazards.md R151). The missing response and the idle step are the
model's choices, log 12 and log 4. -/
def Obligations.ResetInputClearsAndIdleKeeps : Prop :=
  (∀ (s : State) (rest : List HostInput), s.inputs = .resetInput :: rest →
    step s = .next { State.resetWith s.maxN with inputs := rest, trace := s.trace }) ∧
  (∀ s : State, s.inputs = [] → step s = .next s)

/-- Every command ends, in every state, with exactly one response word whose code is `LASTERR` after it, with
`AUX = VAL = 0` on an error (30_encoding.md R61, R66, R68; 10_state.md R29). -/
def Obligations.EveryCommandReturnsOneResponse : Prop :=
  ∀ (i : Instr) (s : State), ∃ t e aux val,
    exec i s = .next t ∧ t.trace = s.trace ++ [responseWord e aux val] ∧ t.lastErr = e.code ∧
    (e ≠ .ok → aux = 0 ∧ val = 0) ∧ t.inputs = s.inputs ∧ t.maxN = s.maxN

/-- No step stops: a command word, legal or not, leads to a next state (30_encoding.md R68), and so does the reset
input (70_reset_and_hazards.md R151; that it is a step with no response is the model's reading, log 12). That a step
with no input goes on is the model's choice (log 4). -/
def Obligations.EveryStepGoesOn : Prop := ∀ s : State, s.Goes

/-- The reset state meets the invariant, for every legal `MAXN` (70_reset_and_hazards.md R152). -/
def Obligations.ResetMeetsTheInvariant : Prop :=
  State.reset.Inv ∧ ∀ m, 1 ≤ m → m ≤ Config.maxNLimit → (State.resetWith m).Inv

/-- Every step keeps the ranges and relations of the state (10_state.md section 1, R15 to R29). -/
def Obligations.StepKeepsTheInvariant : Prop :=
  ∀ s t : State, s.Inv → step s = .next t → t.Inv

/-- Which command writes which state: a blank cell of the table of 10_state.md R34 is never written. -/
def Obligations.CommandsWriteOnlyTheirState : Prop :=
  ∀ (i : Instr) (s t : State), exec i s = .next t → clearsAll i = false →
    (t.cfg = s.cfg ∧ t.w = s.w ∧ t.h = s.h ∧ t.n = s.n) ∧
    (usesPacker i = false → t.pkW = s.pkW ∧ t.pkAcc = s.pkAcc ∧ t.pkCnt = s.pkCnt ∧ t.obuf = s.obuf ∧ t.olen = s.olen) ∧
    (usesUnpacker i = false → t.upW = s.upW ∧ t.upAcc = s.upAcc ∧ t.upCnt = s.upCnt ∧ t.ilen = s.ilen ∧ t.iptr = s.iptr) ∧
    ((∀ j b, i ≠ .wrib j b) → t.ibuf = s.ibuf) ∧
    ((∀ y x v, i ≠ .wrpix y x v) → t.fin = s.fin) ∧
    (i ≠ .compress → i ≠ .cinit →
      t.cprev = s.cprev ∧ t.cwidth = s.cwidth ∧ t.csize = s.csize ∧ t.minPix = s.minPix ∧ t.maxPix = s.maxPix) ∧
    ((∀ k size, i ≠ .decompress k size) → t.fout = s.fout ∧ (i ≠ .dinit → t.dprev = s.dprev))

/-- A command that ends with an error other than `EndOfStream` writes nothing but `LASTERR` and returns the bare
code; `EndOfStream` comes from `UPPOP` and `DECOMPRESS` only (60_exceptions.md R133, R141). -/
def Obligations.ErrorsWriteOnlyLasterr : Prop :=
  ∀ (i : Instr) (s t : State), exec i s = .next t →
    (t.lastErr ≠ 0 → t.lastErr ≠ 1 →
      t = { s with lastErr := t.lastErr, trace := s.trace ++ [t.lastErr ++ 0#56] }) ∧
    (t.lastErr = 1 → i = .uppop ∨ ∃ w size, i = .decompress w size)

/-- `LASTERR` gates nothing: no command's outcome depends on it, but for `RDREG STATUS`, which shows it
(10_state.md R29, 60_exceptions.md R145). -/
def Obligations.LasterrGatesNothing : Prop :=
  ∀ (i : Instr) (s : State) (e : BitVec 8), i ≠ .rdreg 1 → exec i { s with lastErr := e } = exec i s

/-- A command with an operand that is illegal in every state never succeeds, and writes nothing but `LASTERR`
(30_encoding.md R65, R67). -/
def Obligations.IllFormedCommandsOnlyFail : Prop :=
  ∀ (i : Instr) (s t : State), i.wellFormed = false → exec i s = .next t →
    t.lastErr ≠ 0 ∧ t = { s with lastErr := t.lastErr, trace := s.trace ++ [t.lastErr ++ 0#56] }

/-! ### The order of checks -/

/-- `NotConfigured` (60_exceptions.md R136): the six commands that need a geometry answer it, before any other
check of theirs, when `CFG = 0`; no other command ever answers it. -/
def Obligations.GeometryCommandsNeedConfig : Prop :=
  (∀ (i : Instr) (s : State), needsGeometry i = true → s.cfg = false →
    exec i s = .next (s.respond .notConfigured 0 0)) ∧
  (∀ (i : Instr) (s t : State), needsGeometry i = false → exec i s = .next t → t.lastErr ≠ 3)

/-- `NotOpen` (60_exceptions.md R137): `PKPUSH` and `PKFLUSH` on a closed packer, `UPPOP` on a closed unpacker. -/
def Obligations.StreamCommandsNeedAnOpenUnit : Prop :=
  ∀ (s : State) (v : Value),
    (s.pkW = 0 → exec (.pkpush v) s = .next (s.respond .notOpen 0 0) ∧
      exec .pkflush s = .next (s.respond .notOpen 0 0)) ∧
    (s.upW = 0 → exec .uppop s = .next (s.respond .notOpen 0 0))

/-- `BadWidth` (60_exceptions.md R135) comes before any other operand check, and in `DECOMPRESS` after
`NotConfigured` (R142). -/
def Obligations.WidthsOutsideOneToThirtyTwoAreRefused : Prop :=
  ∀ (s : State) (w : BitVec 8) (size : Value), w.toNat = 0 ∨ 32 < w.toNat →
    exec (.pkinit w) s = .next (s.respond .badWidth 0 0) ∧
    exec (.upinit w size) s = .next (s.respond .badWidth 0 0) ∧
    (s.cfg = true → exec (.decompress w size) s = .next (s.respond .badWidth 0 0))

/-- `BadOperand` (60_exceptions.md R138), each row of its table, where the earlier checks pass. -/
def Obligations.OperandsOutOfRangeAreRefused : Prop :=
  ∀ (s : State) (y x w h : BitVec 16) (v : Pixel) (sel k : BitVec 8) (j : Value) (b : Byte),
    (w.toNat = 0 ∨ h.toNat = 0 ∨ s.maxN < w.toNat * h.toNat → exec (.config w h) s = .next (s.respond .badOperand 0 0)) ∧
    (12 < j.toNat → exec (.rdreg j) s = .next (s.respond .badOperand 0 0)) ∧
    (s.cfg = true → s.h ≤ y.toNat ∨ s.w ≤ x.toNat → exec (.wrpix y x v) s = .next (s.respond .badOperand 0 0)) ∧
    (s.cfg = true → 3 < sel.toNat ∨ s.h ≤ y.toNat ∨ s.w ≤ x.toNat →
      exec (.rdpix sel y x) s = .next (s.respond .badOperand 0 0)) ∧
    (4 * s.maxN ≤ j.toNat → exec (.wrib j b) s = .next (s.respond .badOperand 0 0)) ∧
    (s.olen ≤ j.toNat → exec (.rdob j) s = .next (s.respond .badOperand 0 0)) ∧
    (1 ≤ k.toNat → k.toNat ≤ 32 → 4 * s.maxN < j.toNat →
      exec (.upinit k j) s = .next (s.respond .badOperand 0 0) ∧
      (s.cfg = true → exec (.decompress k j) s = .next (s.respond .badOperand 0 0)))

/-- `BufferFull` (60_exceptions.md R140; 40_bitpack.md R83, R84): a push or a flush whose bytes do not fit below
`BUFCAP` has no effect at all. -/
def Obligations.FullOutputBufferRefusesBytes : Prop :=
  ∀ (s : State) (v : Value), s.pkW ≠ 0 →
    (4 * s.maxN < s.olen + (s.pkCnt + s.pkW) / 8 → exec (.pkpush v) s = .next (s.respond .bufferFull 0 0)) ∧
    (0 < s.pkCnt → 4 * s.maxN < s.olen + 1 → exec .pkflush s = .next (s.respond .bufferFull 0 0))

/-! ### System and buffer commands -/

/-- `RESET` (42_system_and_buffers.md R119): every element of the table of 10_state.md section 1 is at its reset
value, whatever it was, and the response is 0. -/
def Obligations.ResetClearsAllState : Prop :=
  ∀ s : State, ∃ t, exec .reset s = .next t ∧
    t.cfg = false ∧ t.w = 0 ∧ t.h = 0 ∧ t.n = 0 ∧
    t.pkW = 0 ∧ t.pkAcc = 0 ∧ t.pkCnt = 0 ∧ t.olen = 0 ∧
    t.upW = 0 ∧ t.upAcc = 0 ∧ t.upCnt = 0 ∧ t.ilen = 0 ∧ t.iptr = 0 ∧
    (∀ i, t.obuf.read i = 0 ∧ t.ibuf.read i = 0) ∧
    (∀ i, t.fin.read i = 0 ∧ t.cprev.read i = 0 ∧ t.dprev.read i = 0 ∧ t.fout.read i = 0) ∧
    t.cwidth = 0 ∧ t.csize = 0 ∧ t.minPix = 0xFFFF ∧ t.maxPix = 0x0000 ∧
    t.lastErr = 0 ∧ t.trace = s.trace ++ [0] ∧ t.inputs = s.inputs ∧ t.maxN = s.maxN

/-- `CONFIG` (42_system_and_buffers.md R120, 70_reset_and_hazards.md R153): the state after it is the reset state
with `CFG = 1` and the geometry set; the product is taken exactly. -/
def Obligations.ConfigIsResetThenGeometry : Prop :=
  ∀ (s : State) (w h : BitVec 16), 1 ≤ w.toNat → 1 ≤ h.toNat → w.toNat * h.toNat ≤ s.maxN →
    exec (.config w h) s = .next
      { State.resetWith s.maxN with
        inputs := s.inputs, trace := s.trace ++ [0], lastErr := 0
        cfg := true, w := w.toNat, h := h.toNat, n := w.toNat * h.toNat }

/-- `RDREG` (42_system_and_buffers.md R121, 10_state.md R31, R32): it returns the register's value in the state
before the command and changes nothing but `LASTERR`. `CSIZE` of `2^32` or more is left out here (log 6). -/
def Obligations.RdregReturnsTheRegister : Prop :=
  ∀ (s : State) (j : Value), s.Inv → j.toNat ≤ 12 → (j.toNat = 5 → s.csize < 2 ^ 32) →
    ∃ t val, exec (.rdreg j) s = .next t ∧ val.toNat = registerNumber s j.toNat ∧ t = s.respond .ok 0 val

/-- `WRPIX` (42_system_and_buffers.md R122): one pixel of `FIN` takes the value, every other pixel and everything
else stays. -/
def Obligations.WrpixWritesOnePixel : Prop :=
  ∀ (s : State) (y x : BitVec 16) (v : Pixel), s.fin.wf = true → s.cfg = true → y.toNat < s.h → x.toNat < s.w →
    ∃ t, exec (.wrpix y x v) s = .next t ∧
      pixel t.fin s.w y.toNat x.toNat = v ∧
      (∀ y' x', x' < s.w → (y', x') ≠ (y.toNat, x.toNat) → pixel t.fin s.w y' x' = pixel s.fin s.w y' x') ∧
      (∀ a, a ≠ y.toNat * s.w + x.toNat → t.fin.read a = s.fin.read a) ∧ t.fin.wf = true ∧
      t = { s with fin := t.fin, lastErr := 0, trace := s.trace ++ [0] }

/-- `RDPIX` (42_system_and_buffers.md R123): selectors 0 to 3 are `FOUT`, `FIN`, `CPREV`, `DPREV`; the pixel is in
`VAL[15:0]`; nothing changes but `LASTERR`. -/
def Obligations.RdpixReturnsThePixel : Prop :=
  ∀ (s : State) (y x : BitVec 16), s.cfg = true → y.toNat < s.h → x.toNat < s.w →
    ∀ p ∈ [((0 : BitVec 8), s.fout), (1, s.fin), (2, s.cprev), (3, s.dprev)],
      ∃ t, exec (.rdpix p.1 y x) s = .next t ∧
        t = s.respond .ok 0 (BitVec.ofNat 32 (pixel p.2 s.w y.toNat x.toNat).toNat)

/-- `WRIB` (42_system_and_buffers.md R124): one byte of `IBUF` takes the value, every other byte and everything
else stays, configured or not. -/
def Obligations.WribWritesOneByte : Prop :=
  ∀ (s : State) (j : Value) (b : Byte), s.ibuf.wf = true → j.toNat < 4 * s.maxN →
    ∃ t, exec (.wrib j b) s = .next t ∧
      t.ibuf.read j.toNat = b ∧ (∀ a, a ≠ j.toNat → t.ibuf.read a = s.ibuf.read a) ∧ t.ibuf.wf = true ∧
      t = { s with ibuf := t.ibuf, lastErr := 0, trace := s.trace ++ [0] }

/-- `RDOB` (42_system_and_buffers.md R125): the byte is in `VAL[7:0]`; nothing changes but `LASTERR`. -/
def Obligations.RdobReturnsTheByte : Prop :=
  ∀ (s : State) (j : Value), j.toNat < s.olen →
    ∃ t, exec (.rdob j) s = .next t ∧ t = s.respond .ok 0 (BitVec.ofNat 32 (s.obuf.read j.toNat).toNat)

/-- `CINIT` (41_codec.md R112): every pixel of `CPREV` is 0 and the result registers are at their reset values;
nothing else changes. -/
def Obligations.CinitStartsANewCompressor : Prop :=
  ∀ s : State, s.cprev.wf = true → s.cfg = true →
    ∃ t, exec .cinit s = .next t ∧
      (∀ y x, y < s.h → x < s.w → pixel t.cprev s.w y x = 0) ∧
      (∀ a, s.h * s.w ≤ a → t.cprev.read a = s.cprev.read a) ∧ t.cprev.wf = true ∧
      t = { s with
        cprev := t.cprev, cwidth := 0, csize := 0, minPix := 0xFFFF, maxPix := 0x0000
        lastErr := 0, trace := s.trace ++ [0] }

/-- `DINIT` (41_codec.md R113): every pixel of `DPREV` is 0; nothing else changes. -/
def Obligations.DinitStartsANewDecompressor : Prop :=
  ∀ s : State, s.dprev.wf = true → s.cfg = true →
    ∃ t, exec .dinit s = .next t ∧
      (∀ y x, y < s.h → x < s.w → pixel t.dprev s.w y x = 0) ∧
      (∀ a, s.h * s.w ≤ a → t.dprev.read a = s.dprev.read a) ∧ t.dprev.wf = true ∧
      t = { s with dprev := t.dprev, lastErr := 0, trace := s.trace ++ [0] }

/-- The pseudo-instruction `NEWFILE` (30_encoding.md R70): both previous frames are zero and every other buffer
is as it was. -/
def Obligations.NewfileClearsBothPreviousFrames : Prop :=
  ∀ s : State, s.Inv → s.cfg = true →
    ∃ t, execList Pseudo.newfile.expand s = .next t ∧
      t.cprev = [] ∧ t.dprev = [] ∧ t.fin = s.fin ∧ t.fout = s.fout ∧ t.obuf = s.obuf ∧ t.ibuf = s.ibuf ∧
      t.trace = s.trace ++ [0, 0]

/-! ### The packer and the unpacker -/

/-- `PKINIT` (40_bitpack.md R82): the packer is open and empty at the new width and `OLEN = 0`; no byte of `OBUF`
and nothing else changes. -/
def Obligations.PkinitOpensThePacker : Prop :=
  ∀ (s : State) (w : BitVec 8), 1 ≤ w.toNat → w.toNat ≤ 32 →
    exec (.pkinit w) s = .next
      { s with pkW := w.toNat, pkAcc := 0, pkCnt := 0, olen := 0, lastErr := 0, trace := s.trace ++ [0] }

/-- `PKPUSH` (40_bitpack.md R79, R83): it emits `(PK_CNT + PK_W) div 8` bytes at `OLEN` and leaves
`(PK_CNT + PK_W) mod 8` bits, and these bytes followed by these bits are the bits that were pending followed by
the field `enc_w(v)`; every other byte and everything else stays; `AUX` is the bytes emitted, `VAL` is `OLEN`
modulo `2^32`. -/
def Obligations.PkpushAppendsTheField : Prop :=
  ∀ (s : State) (v : Value), s.PackerInv → s.obuf.wf = true → s.pkW ≠ 0 →
    s.olen + (s.pkCnt + s.pkW) / 8 ≤ 4 * s.maxN →
    ∃ t, exec (.pkpush v) s = .next t ∧
      t.olen = s.olen + (s.pkCnt + s.pkW) / 8 ∧ t.pkCnt = (s.pkCnt + s.pkW) % 8 ∧
      bytesValue (t.obuf.slice s.olen ((s.pkCnt + s.pkW) / 8)) * 2 ^ t.pkCnt + t.pkPending =
        s.pkPending * 2 ^ s.pkW + enc s.pkW v.toInt ∧
      t.pkAcc.toNat % 2 ^ (40 - t.pkCnt) = 0 ∧
      (∀ a, a < s.olen ∨ t.olen ≤ a → t.obuf.read a = s.obuf.read a) ∧ t.obuf.wf = true ∧
      t = { s with
        pkAcc := t.pkAcc, pkCnt := t.pkCnt, obuf := t.obuf, olen := t.olen, lastErr := 0
        trace := s.trace ++
          [responseWord .ok (BitVec.ofNat 8 ((s.pkCnt + s.pkW) / 8)) (BitVec.ofNat 32 t.olen)] }

/-- `PKFLUSH` (40_bitpack.md R80, R84): pending bits become one byte, padded with zeros in its low bits; with none
pending nothing is emitted; the packer is closed. -/
def Obligations.PkflushEmitsThePaddedTail : Prop :=
  ∀ s : State, s.PackerInv → s.obuf.wf = true → s.pkW ≠ 0 → (0 < s.pkCnt → s.olen + 1 ≤ 4 * s.maxN) →
    ∃ t, exec .pkflush s = .next t ∧
      (s.pkCnt = 0 → t.obuf = s.obuf ∧ t.olen = s.olen) ∧
      (0 < s.pkCnt → t.olen = s.olen + 1 ∧
        (t.obuf.read s.olen).toNat = s.pkPending * 2 ^ (8 - s.pkCnt) ∧
        ∀ a, a ≠ s.olen → t.obuf.read a = s.obuf.read a) ∧ t.obuf.wf = true ∧
      t = { s with
        pkW := 0, pkAcc := 0, pkCnt := 0, obuf := t.obuf, olen := t.olen, lastErr := 0
        trace := s.trace ++ [responseWord .ok (if s.pkCnt = 0 then 0 else 1) (BitVec.ofNat 32 t.olen)] }

/-- The state machine computes `pack` (40_bitpack.md R73, R81): the pseudo-instruction `PACK w, S` leaves
`pack(S, w)` in `OBUF[0 .. OLEN−1]`, whatever the packer was doing before, and touches nothing of `OBUF` beyond. -/
def Obligations.PackCommandsComputePack : Prop :=
  ∀ (s : State) (w : BitVec 8) (S : List Value), 1 ≤ w.toNat → w.toNat ≤ 32 → s.obuf.wf = true →
    (S.length * w.toNat + 7) / 8 ≤ 4 * s.maxN →
    ∃ t, execList (Pseudo.pack w S).expand s = .next t ∧
      t.olen = (S.length * w.toNat + 7) / 8 ∧
      t.obuf.slice 0 t.olen = pack w.toNat (S.map BitVec.toInt) ∧
      (∀ a, t.olen ≤ a → t.obuf.read a = s.obuf.read a) ∧ t.obuf.wf = true ∧
      t = { s with
        pkW := 0, pkAcc := 0, pkCnt := 0, obuf := t.obuf, olen := t.olen, lastErr := 0, trace := t.trace }

/-- `UPINIT` (40_bitpack.md R88): the unpacker is open and empty at the new width over the first `size` bytes;
`IBUF` and everything else stays. -/
def Obligations.UpinitOpensTheUnpacker : Prop :=
  ∀ (s : State) (w : BitVec 8) (size : Value), 1 ≤ w.toNat → w.toNat ≤ 32 → size.toNat ≤ 4 * s.maxN →
    exec (.upinit w size) s = .next
      { s with
        upW := w.toNat, upAcc := 0, upCnt := 0, ilen := size.toNat, iptr := 0
        lastErr := 0, trace := s.trace ++ [0] }

/-- `UPPOP` with enough bits (40_bitpack.md R86, R89): it reads the bytes it needs, returns `dec_w` of the top `w`
of the bits that were valid followed by those bytes, and keeps the rest; everything else stays. -/
def Obligations.UppopReturnsTheNextField : Prop :=
  ∀ s : State, s.UnpackerInv → s.upW ≠ 0 → s.upW ≤ s.upCnt + 8 * (s.ilen - s.iptr) →
    ∃ t x, exec .uppop s = .next t ∧ x < 2 ^ s.upW ∧
      x * 2 ^ t.upCnt + t.upPending =
        s.upPending * 256 ^ popNeeds s + bytesValue (s.ibuf.slice s.iptr (popNeeds s)) ∧
      t.iptr = s.iptr + popNeeds s ∧ t.upCnt = s.upCnt + 8 * popNeeds s - s.upW ∧
      t.upAcc.toNat % 2 ^ (40 - t.upCnt) = 0 ∧
      t = { s with
        upAcc := t.upAcc, upCnt := t.upCnt, iptr := t.iptr, lastErr := 0
        trace := s.trace ++ [responseWord .ok 0 (BitVec.ofInt 32 (dec s.upW x))] }

/-- `UPPOP` that runs out of bytes (40_bitpack.md R86, R89; 60_exceptions.md R134, R141): `EndOfStream`, the bytes
read before stay consumed and their bits stay in `UP_ACC`, the unpacker stays open; the same command again fails
again and changes nothing more. -/
def Obligations.UppopAtTheEndKeepsWhatItRead : Prop :=
  ∀ s : State, s.UnpackerInv → s.upW ≠ 0 → s.upCnt + 8 * (s.ilen - s.iptr) < s.upW →
    ∃ t, exec .uppop s = .next t ∧
      t.iptr = s.ilen ∧ t.upCnt = s.upCnt + 8 * (s.ilen - s.iptr) ∧
      t.upPending = s.upPending * 256 ^ (s.ilen - s.iptr) + bytesValue (s.ibuf.slice s.iptr (s.ilen - s.iptr)) ∧
      t.upAcc.toNat % 2 ^ (40 - t.upCnt) = 0 ∧
      t = { s with
        upAcc := t.upAcc, upCnt := t.upCnt, iptr := t.iptr, lastErr := 1
        trace := s.trace ++ [0x0100000000000000] } ∧
      exec .uppop t = .next { t with trace := t.trace ++ [0x0100000000000000] }

/-- The state machine computes `unpack` (40_bitpack.md R74, R87): of `n` pops over `Y = IBUF[0 .. size−1]`, those
whose bits are all there return their values in order, and every later one `EndOfStream`; after `n` successful
pops `IPTR = ⌈n*w/8⌉` and `UP_CNT = 8*IPTR − n*w`. -/
def Obligations.UnpackCommandsComputeUnpack : Prop :=
  ∀ (s : State) (w : BitVec 8) (size : Value) (n k : Nat),
    1 ≤ w.toNat → w.toNat ≤ 32 → size.toNat ≤ 4 * s.maxN → k = min n (8 * size.toNat / w.toNat) →
    ∃ t vs, execList (Pseudo.unpack w size n).expand s = .next t ∧
      unpack w.toNat k (s.ibuf.slice 0 size.toNat) = some vs ∧
      t.trace = s.trace ++ [0] ++ vs.map (fun v => responseWord .ok 0 (BitVec.ofInt 32 v)) ++
        List.replicate (n - k) 0x0100000000000000 ∧
      (n = k → t.iptr = (n * w.toNat + 7) / 8 ∧ t.upCnt = 8 * t.iptr - n * w.toNat) ∧
      (k < n → t.iptr = size.toNat) ∧
      t.upW = w.toNat ∧ t.ilen = size.toNat ∧ t.ibuf = s.ibuf

/-- The accumulators suffice (40_bitpack.md R92). After `k` pushes of one packing sequence `(k*w) mod 8` bits are
pending. Inside `pk_push`, at every turn of its loop, and inside `up_pop`, at every turn of its loop, the count is
at most 38, and each of them reaches 38; at width 32 the packer's count is 0 before the push and at most 32 in it.
The packer's count passes 32 in some state exactly at the widths 27, 29, 30, 31. -/
def Obligations.AccumulatorBounds : Prop :=
  (∀ (s : State) (w : Nat) (vs : List Int), ((s.pkInit w).pkPushAll vs).pkCnt = vs.length * w % 8) ∧
  (∀ (s : State) (v : Int), s.PackerInv →
    s.pkCnt ≤ 7 ∧ (s.pkW = 32 → s.pkCnt = 0 ∧ (s.pkPlace v).pkCnt = 32) ∧
    (∀ k, (State.pkDrain k (s.pkPlace v)).pkCnt ≤ 38) ∧ (s.pkPush v).pkCnt ≤ 7) ∧
  (∀ s : State, s.UnpackerInv → ∀ k, (State.upFetch k s).2.upCnt ≤ 38) ∧
  (∀ (w : Nat) (v : Int), 1 ≤ w → w ≤ 32 →
    ((∃ s : State, s.PackerInv ∧ s.pkW = w ∧ 32 < (s.pkPlace v).pkCnt) ↔ w = 27 ∨ w = 29 ∨ w = 30 ∨ w = 31)) ∧
  (∀ v : Int, ∃ s : State, s.PackerInv ∧ s.pkW = 31 ∧ (s.pkPlace v).pkCnt = 38) ∧
  (∃ s : State, s.UnpackerInv ∧ s.upW = 31 ∧ (State.upFetch s.upW s).2.upCnt = 38)

/-! ### The frame codec -/

/-- The deltas (41_codec.md R94, R95, R98): `D[snake(y, x)] = FIN[y][x] − CPREV[y][x]`, exact, `N` of them in
`−65535 .. 65535`, and `A[i] = D[i+1] − D[i]`, `N − 1` of them in `−131070 .. 131070`. -/
def Obligations.DeltasAreInSnakeOrder : Prop :=
  ∀ s : State, s.GeometryInv → s.cfg = true →
    s.deltas.length = s.n ∧ (adjacent s.deltas).length = s.n - 1 ∧
    (∀ y x, y < s.h → x < s.w →
      s.deltas.getD (snake s.w y x) 0 =
        ((pixel s.fin s.w y x).toNat : Int) - ((pixel s.cprev s.w y x).toNat : Int)) ∧
    (∀ i, i + 1 < s.n → (adjacent s.deltas).getD i 0 = s.deltas.getD (i + 1) 0 - s.deltas.getD i 0) ∧
    (∀ d ∈ s.deltas, -65535 ≤ d ∧ d ≤ 65535) ∧ (∀ a ∈ adjacent s.deltas, -131070 ≤ a ∧ a ≤ 131070)

/-- The width (41_codec.md R99, R100, R101, R117): it is 1 when every adjacent delta is 0, else `⌊log2 M⌋ + 2`; it
is in `1..18`; every adjacent delta fits it and survives the field encoding. -/
def Obligations.ChosenWidthHoldsEveryDelta : Prop :=
  ∀ s : State,
    1 ≤ s.frameWidth ∧ s.frameWidth ≤ 18 ∧
    (s.frameWidth = 1 ↔ ∀ a ∈ adjacent s.deltas, a = 0) ∧
    (2 ≤ s.frameWidth → ∃ a ∈ adjacent s.deltas, 2 ^ (s.frameWidth - 2) ≤ a.natAbs) ∧
    (∀ a ∈ adjacent s.deltas,
      a.natAbs < 2 ^ (s.frameWidth - 1) ∧ dec s.frameWidth (enc s.frameWidth a) = a)

/-- `COMPRESS` emits the payload (41_codec.md R102, R103; 30_encoding.md R58, R59): `LE32(D[0])` followed by
`pack(A, w)` at `OBUF[0 .. CSIZE−1]`, `4 + ⌈(N−1)*w/8⌉` bytes; `CSIZE` is the exact number of bytes, which for
2^32 bytes or more is the model's reading (log 6). What the response shows is said only for `CSIZE` below `2^32`
(log 6). -/
def Obligations.CompressEmitsThePayload : Prop :=
  ∀ s : State, s.Inv → s.cfg = true →
    ∃ t, exec .compress s = .next t ∧
      t.olen = 4 + ((s.n - 1) * s.frameWidth + 7) / 8 ∧ t.olen ≤ 4 * s.n ∧
      t.obuf.slice 0 t.olen = payload (s.deltas.headD 0) (adjacent s.deltas) s.frameWidth ∧
      (∀ a, t.olen ≤ a → t.obuf.read a = s.obuf.read a) ∧
      t.cwidth = s.frameWidth ∧ t.csize = t.olen ∧
      (t.csize < 2 ^ 32 →
        t.trace = s.trace ++ [responseWord .ok (BitVec.ofNat 8 t.cwidth) (BitVec.ofNat 32 t.csize)])

/-- After a successful `COMPRESS` (41_codec.md R104): (a) `CPREV = FIN`; (b) `CSIZE = OLEN = 4 + ⌈(N−1)*CWIDTH/8⌉`;
(c) `1 ≤ CWIDTH ≤ 18`; (d) the packer is closed and empty; (e) `MINPIX ≤ MAXPIX` exactly when the interior is
not empty; (f) `FIN` is unchanged. `CSIZE = OLEN` is R104's own (b); that no
payload, of 2^32 bytes or more either, is reduced in `CSIZE` is also log 6. And nothing outside the packer, `OBUF`, `CPREV` and the results changes. -/
def Obligations.StateAfterCompress : Prop :=
  ∀ s : State, s.Inv → s.cfg = true →
    ∃ t, exec .compress s = .next t ∧
      (∀ y x, y < s.h → x < s.w → pixel t.cprev s.w y x = pixel s.fin s.w y x) ∧
      t.csize = t.olen ∧ t.olen = 4 + ((s.n - 1) * t.cwidth + 7) / 8 ∧
      1 ≤ t.cwidth ∧ t.cwidth ≤ 18 ∧
      t.pkW = 0 ∧ t.pkAcc = 0 ∧ t.pkCnt = 0 ∧
      (t.minPix.toNat ≤ t.maxPix.toNat ↔ 3 ≤ s.h ∧ 3 ≤ s.w) ∧
      t.fin = s.fin ∧
      t = { s with
        cprev := t.cprev, obuf := t.obuf, olen := t.olen, pkW := 0, pkAcc := 0, pkCnt := 0
        cwidth := t.cwidth, csize := t.csize, minPix := t.minPix, maxPix := t.maxPix
        lastErr := 0, trace := t.trace }

/-- The extremes (41_codec.md R97): the true least and greatest pixel of the interior of `FIN`, or `0xFFFF` and
`0x0000` when there is no interior. -/
def Obligations.ExtremesAreOfTheInterior : Prop :=
  ∀ s : State, s.Inv → s.cfg = true →
    ∃ t, exec .compress s = .next t ∧
      (∀ y x, 1 ≤ y → y + 2 ≤ s.h → 1 ≤ x → x + 2 ≤ s.w →
        t.minPix.toNat ≤ (pixel s.fin s.w y x).toNat ∧ (pixel s.fin s.w y x).toNat ≤ t.maxPix.toNat) ∧
      (3 ≤ s.h → 3 ≤ s.w →
        (∃ y x, 1 ≤ y ∧ y + 2 ≤ s.h ∧ 1 ≤ x ∧ x + 2 ≤ s.w ∧ pixel s.fin s.w y x = t.minPix) ∧
        (∃ y x, 1 ≤ y ∧ y + 2 ≤ s.h ∧ 1 ≤ x ∧ x + 2 ≤ s.w ∧ pixel s.fin s.w y x = t.maxPix)) ∧
      (s.h < 3 ∨ s.w < 3 → t.minPix = 0xFFFF ∧ t.maxPix = 0x0000)

/-- The unchanged frame (41_codec.md R118): `COMPRESS` with `FIN = CPREV` answers `AUX = 1`,
`VAL = 4 + ⌈(N−1)/8⌉`, and every payload byte is 0. -/
def Obligations.UnchangedFrameCompressesToZeros : Prop :=
  ∀ s : State, s.Inv → s.cfg = true →
    (∀ y x, y < s.h → x < s.w → pixel s.fin s.w y x = pixel s.cprev s.w y x) →
    ∃ t, exec .compress s = .next t ∧ t.cwidth = 1 ∧ t.csize = 4 + (s.n - 1 + 7) / 8 ∧
      (∀ a, a < t.csize → t.obuf.read a = 0) ∧
      t.trace = s.trace ++ [responseWord .ok 1 (BitVec.ofNat 32 (4 + (s.n - 1 + 7) / 8))]

/-- `DECOMPRESS` of a stream that is long enough (41_codec.md R105 to R108, R110, R115; 20_memory.md R42): every
pixel of `FOUT` and of `DPREV` is the old `DPREV` plus its delta modulo `2^16`; exactly the bytes needed are
consumed; the unpacker is closed; everything else stays. -/
def Obligations.DecompressAddsTheDecodedDeltas : Prop :=
  ∀ (s : State) (w : BitVec 8) (size : Value), s.Inv → s.cfg = true → 1 ≤ w.toNat → w.toNat ≤ 32 →
    size.toNat ≤ 4 * s.maxN → 4 + ((s.n - 1) * w.toNat + 7) / 8 ≤ size.toNat →
    ∃ t, exec (.decompress w size) s = .next t ∧
      (∀ y x, y < s.h → x < s.w →
        pixel t.fout s.w y x =
          BitVec.ofInt 16 (((pixel s.dprev s.w y x).toNat : Int) +
            decodedDelta s w.toNat size.toNat (snake s.w y x)) ∧
        pixel t.dprev s.w y x = pixel t.fout s.w y x) ∧
      t.iptr = 4 + ((s.n - 1) * w.toNat + 7) / 8 ∧ t.ilen = size.toNat ∧
      t = { s with
        fout := t.fout, dprev := t.dprev, ilen := t.ilen, iptr := t.iptr, upW := 0, upAcc := 0, upCnt := 0
        lastErr := 0, trace := s.trace ++ [responseWord .ok 0 (BitVec.ofNat 32 t.iptr)] }

/-- `DECOMPRESS` of a short stream (41_codec.md R109): `EndOfStream` exactly when `size < 4 + ⌈(N−1)*w/8⌉`; then
`FOUT` and `DPREV` are unchanged, every byte is consumed, the unpacker is closed. -/
def Obligations.ShortPayloadEndsInEndOfStream : Prop :=
  ∀ (s : State) (w : BitVec 8) (size : Value), s.Inv → s.cfg = true → 1 ≤ w.toNat → w.toNat ≤ 32 →
    size.toNat ≤ 4 * s.maxN →
    ∃ t, exec (.decompress w size) s = .next t ∧
      (t.lastErr = 1 ↔ size.toNat < 4 + ((s.n - 1) * w.toNat + 7) / 8) ∧
      (size.toNat < 4 + ((s.n - 1) * w.toNat + 7) / 8 →
        t = { s with
          ilen := size.toNat, iptr := size.toNat, upW := 0, upAcc := 0, upCnt := 0
          lastErr := 1, trace := s.trace ++ [0x0100000000000000] })

/-- The round trip of the codec (41_codec.md R116): an engine `s` compresses its frame; any engine `u` of the same
geometry whose `DPREV` is the frame `s` predicted from, with the payload in `IBUF`, decompresses it at the width
and size `COMPRESS` returned, and then `FOUT`, `DPREV` and the compressor's `CPREV` all are that frame. A payload
of 2^32 bytes or more, which the size operand cannot name, is left out (log 6). -/
def Obligations.DecompressOfCompressIsTheFrame : Prop :=
  ∀ s u : State, s.Inv → s.cfg = true → u.Inv → u.cfg = true → u.w = s.w → u.h = s.h →
    (∀ y x, y < s.h → x < s.w → pixel u.dprev s.w y x = pixel s.cprev s.w y x) →
    ∃ t, exec .compress s = .next t ∧
      (t.csize < 2 ^ 32 → u.ibuf.slice 0 t.csize = t.obuf.slice 0 t.csize →
        ∃ r, exec (.decompress (BitVec.ofNat 8 t.cwidth) (BitVec.ofNat 32 t.csize)) u = .next r ∧
          r.lastErr = 0 ∧ r.iptr = t.csize ∧
          ∀ y x, y < s.h → x < s.w →
            pixel r.fout s.w y x = pixel s.fin s.w y x ∧ pixel r.dprev s.w y x = pixel s.fin s.w y x ∧
            pixel t.cprev s.w y x = pixel s.fin s.w y x)

/-- Compression and decompression are independent (70_reset_and_hazards.md R157): what `COMPRESS` answers and
leaves in the compressor, with the payload bytes it emits, depends only on the geometry, `FIN` and `CPREV`; what `DECOMPRESS` answers and leaves in
the decompressor depends only on the geometry, `MAXN`, `IBUF`, `DPREV` and `FOUT`. -/
def Obligations.CompressorAndDecompressorAreIndependent : Prop :=
  ∀ s s' t t' : State, s.cfg = s'.cfg → s.w = s'.w → s.h = s'.h → s.n = s'.n → s.trace = s'.trace →
    (s.fin = s'.fin → s.cprev = s'.cprev → exec .compress s = .next t → exec .compress s' = .next t' →
      t.trace = t'.trace ∧ t.cprev = t'.cprev ∧
      (s.cfg = true → t.cwidth = t'.cwidth ∧ t.csize = t'.csize ∧ t.minPix = t'.minPix ∧ t.maxPix = t'.maxPix ∧
        t.olen = t'.olen ∧
        (s.obuf.wf = true → s'.obuf.wf = true → t.obuf.slice 0 t.olen = t'.obuf.slice 0 t'.olen))) ∧
    (∀ (w : BitVec 8) (size : Value), s.maxN = s'.maxN → s.ibuf = s'.ibuf → s.dprev = s'.dprev → s.fout = s'.fout →
      exec (.decompress w size) s = .next t → exec (.decompress w size) s' = .next t' →
      t.trace = t'.trace ∧ t.fout = t'.fout ∧ t.dprev = t'.dprev)
end

