-- ==== Sys2Proof/Laws/Encoding.lean ====
section
/-! SUPPORT. The fields of a command word: each reads back what the word was built from, and a word is its four
fields (spec/30_encoding.md R62). -/

namespace Sys2Proof

theorem cmdOp_cmdWord (op : BitVec 8) (a : BitVec 16) (b : BitVec 8) (c : BitVec 32) :
    cmdOp (cmdWord op a b c) = op := by
  apply BitVec.eq_of_getLsbD_eq
  intro i hi
  simp only [cmdOp, cmdWord, BitVec.getLsbD_extractLsb', BitVec.getLsbD_append]
  simp [hi, show ¬ 56 + i < 32 by omega, show ¬ 56 + i - 32 < 8 by omega,
    show ¬ 56 + i - 32 - 8 < 16 by omega, show 56 + i - 32 - 8 - 16 = i by omega]

theorem cmdA_cmdWord (op : BitVec 8) (a : BitVec 16) (b : BitVec 8) (c : BitVec 32) :
    cmdA (cmdWord op a b c) = a := by
  apply BitVec.eq_of_getLsbD_eq
  intro i hi
  simp only [cmdA, cmdWord, BitVec.getLsbD_extractLsb', BitVec.getLsbD_append]
  simp [hi, show ¬ 40 + i < 32 by omega, show ¬ 40 + i - 32 < 8 by omega,
    show 40 + i - 32 - 8 = i by omega]

theorem cmdB_cmdWord (op : BitVec 8) (a : BitVec 16) (b : BitVec 8) (c : BitVec 32) :
    cmdB (cmdWord op a b c) = b := by
  apply BitVec.eq_of_getLsbD_eq
  intro i hi
  simp only [cmdB, cmdWord, BitVec.getLsbD_extractLsb', BitVec.getLsbD_append]
  simp [hi, show ¬ 32 + i < 32 by omega, show 32 + i - 32 = i by omega]

theorem cmdC_cmdWord (op : BitVec 8) (a : BitVec 16) (b : BitVec 8) (c : BitVec 32) :
    cmdC (cmdWord op a b c) = c := by
  apply BitVec.eq_of_getLsbD_eq
  intro i hi
  simp only [cmdC, cmdWord, BitVec.getLsbD_extractLsb', BitVec.getLsbD_append]
  simp [hi]

theorem cmdHi_eq (c : Word) : cmdHi c = (cmdC c).extractLsb' 16 16 := by
  apply BitVec.eq_of_getLsbD_eq
  intro i hi
  simp [cmdHi, cmdC, hi]

theorem cmdLo_eq (c : Word) : cmdLo c = (cmdC c).extractLsb' 0 16 := by
  apply BitVec.eq_of_getLsbD_eq
  intro i hi
  simp [cmdLo, cmdC, hi]

theorem cmdOp_pair (op : BitVec 8) (a : BitVec 16) (b : BitVec 8) (y x : BitVec 16) :
    cmdOp (cmdWordPair op a b y x) = op := cmdOp_cmdWord ..

theorem cmdA_pair (op : BitVec 8) (a : BitVec 16) (b : BitVec 8) (y x : BitVec 16) :
    cmdA (cmdWordPair op a b y x) = a := cmdA_cmdWord ..

theorem cmdB_pair (op : BitVec 8) (a : BitVec 16) (b : BitVec 8) (y x : BitVec 16) :
    cmdB (cmdWordPair op a b y x) = b := cmdB_cmdWord ..

theorem cmdHi_pair (op : BitVec 8) (a : BitVec 16) (b : BitVec 8) (y x : BitVec 16) :
    cmdHi (cmdWordPair op a b y x) = y := by
  rw [cmdHi_eq, cmdWordPair, cmdC_cmdWord]
  apply BitVec.eq_of_getLsbD_eq
  intro i hi
  simp only [BitVec.getLsbD_extractLsb', BitVec.getLsbD_append]
  simp [hi, show ¬ 16 + i < 16 by omega]

theorem cmdLo_pair (op : BitVec 8) (a : BitVec 16) (b : BitVec 8) (y x : BitVec 16) :
    cmdLo (cmdWordPair op a b y x) = x := by
  rw [cmdLo_eq, cmdWordPair, cmdC_cmdWord]
  apply BitVec.eq_of_getLsbD_eq
  intro i hi
  simp only [BitVec.getLsbD_extractLsb', BitVec.getLsbD_append]
  simp [hi]

/-- A word is its four fields. -/
theorem cmdWord_fields (c : Word) : cmdWord (cmdOp c) (cmdA c) (cmdB c) (cmdC c) = c := by
  apply BitVec.eq_of_getLsbD_eq
  intro i hi
  simp only [cmdWord, cmdOp, cmdA, cmdB, cmdC, BitVec.getLsbD_append, BitVec.getLsbD_extractLsb']
  split
  · next h => simp [h]
  · split
    · next h1 h2 => simp only [h2, decide_true, Bool.true_and]; congr 1; omega
    · split
      · next h1 h2 h3 => simp only [h3, decide_true, Bool.true_and]; congr 1; omega
      · next h1 h2 h3 =>
        simp only [show i - 32 - 8 - 16 < 8 by omega, decide_true, Bool.true_and]; congr 1; omega

/-- Field `C` is its pair. -/
theorem cmdC_pair_fields (c : Word) : cmdHi c ++ cmdLo c = cmdC c := by
  apply BitVec.eq_of_getLsbD_eq
  intro i hi
  simp only [cmdHi, cmdLo, cmdC, BitVec.getLsbD_append, BitVec.getLsbD_extractLsb']
  split
  · next h => simp [h, hi]
  · next h =>
    simp only [show i - 16 < 16 by omega, hi, decide_true, Bool.true_and]; congr 1; omega

end Sys2Proof
end

