-- ==== Sys2Proof/Laws/Memory.lean ====
section
/-! SUPPORT. The laws of the buffers: what a read gives after a write or a fill, the canonical form is kept,
and two canonical buffers that read the same are the same data. -/

namespace Sys2Proof.Machine

variable {k : Nat}

/-- The canonical form, as propositions. -/
theorem Memory.wf_iff (m : Memory k) :
    m.wf = true ↔ m.Pairwise (fun p q => p.1 < q.1) ∧ ∀ p ∈ m, p.2 ≠ unlisted k := by
  simp [Memory.wf]

theorem Memory.below_iff (m : Memory k) (n : Nat) : m.below n = true ↔ ∀ p ∈ m, p.1 < n := by
  simp [Memory.below]

@[simp] theorem Memory.wf_nil : Memory.wf ([] : Memory k) = true := by simp [Memory.wf]

@[simp] theorem Memory.below_nil (n : Nat) : Memory.below ([] : Memory k) n = true := by simp [Memory.below]

@[simp] theorem Memory.read_nil (i : Nat) : Memory.read ([] : Memory k) i = 0#k := rfl

/-- A canonical list's tail is canonical, its head is not the unlisted value and lies below the tail. -/
theorem Memory.wf_cons {a : Nat} {v : BitVec k} {m : Memory k} :
    Memory.wf ((a, v) :: m) = true ↔ v ≠ unlisted k ∧ (∀ p ∈ m, a < p.1) ∧ Memory.wf m = true := by
  simp only [Memory.wf_iff, List.pairwise_cons, List.mem_cons, forall_eq_or_imp]
  tauto

/-- An index below every listed one reads as an unlisted cell. -/
theorem Memory.read_of_lt {m : Memory k} {i : Nat} (h : ∀ p ∈ m, i < p.1) : m.read i = 0#k := by
  induction m with
  | nil => rfl
  | cons c m ih =>
    obtain ⟨a, v⟩ := c
    simp only [List.mem_cons, forall_eq_or_imp] at h
    rw [Memory.read, if_neg (by have := h.1; omega), ih h.2]

/-- An index no cell lies at or above reads as an unlisted cell. -/
theorem Memory.read_of_below {m : Memory k} {n i : Nat} (h : m.below n = true) (hi : n ≤ i) :
    m.read i = 0#k := by
  rw [Memory.below_iff] at h
  induction m with
  | nil => rfl
  | cons c m ih =>
    obtain ⟨a, v⟩ := c
    simp only [List.mem_cons, forall_eq_or_imp] at h
    rw [Memory.read, if_neg (by have := h.1; omega), ih h.2]

/-- A put cell reads as its value, the others as before. -/
theorem Memory.read_put {m : Memory k} {i : Nat} (v : BitVec k) (h : ∀ p ∈ m, i < p.1) (j : Nat) :
    (Memory.put i v m).read j = if i = j then v else m.read j := by
  unfold Memory.put
  split
  · next hv =>
    split
    · next hij => subst hij; rw [Memory.read_of_lt h, hv]; rfl
    · rfl
  · rfl

/-- Put, and then any other cell, reads as before. -/
theorem Memory.read_put_other {m : Memory k} {i j : Nat} (v : BitVec k) (h : i ≠ j) :
    (Memory.put i v m).read j = m.read j := by
  unfold Memory.put
  split
  · rfl
  · rw [Memory.read, if_neg h]

/-- A write leaves every other cell alone. -/
theorem Memory.read_write_other {m : Memory k} {i j : Nat} (v : BitVec k) (h : i ≠ j) :
    (Memory.write m i v).read j = m.read j := by
  induction m with
  | nil => rw [Memory.write, Memory.read_put_other v h]
  | cons c m ih =>
    obtain ⟨a, u⟩ := c
    rw [Memory.write]
    split
    · rw [Memory.read_put_other v h]
    · split
      · next hai => rw [Memory.read_put_other v h, Memory.read, if_neg (by omega)]
      · rw [Memory.read, Memory.read, ih]

/-- A write to a canonical buffer reads back. -/
theorem Memory.read_write_same {m : Memory k} (i : Nat) (v : BitVec k) (hm : m.wf = true) :
    (Memory.write m i v).read i = v := by
  induction m with
  | nil => rw [Memory.write, Memory.read_put v (by simp)]; simp
  | cons c m ih =>
    obtain ⟨a, u⟩ := c
    rw [Memory.wf_cons] at hm
    rw [Memory.write]
    split
    · next hia =>
      rw [Memory.read_put v]
      · simp
      · simp only [List.mem_cons, forall_eq_or_imp]
        exact ⟨hia, fun p hp => Nat.lt_trans hia (hm.2.1 p hp)⟩
    · split
      · next hai => subst hai; rw [Memory.read_put v hm.2.1]; simp
      · next hai => rw [Memory.read, if_neg hai, ih hm.2.2]

/-- What a read gives after a write. -/
theorem Memory.read_write {m : Memory k} (i j : Nat) (v : BitVec k) (hm : m.wf = true) :
    (Memory.write m i v).read j = if i = j then v else m.read j := by
  split
  · next h => subst h; exact Memory.read_write_same i v hm
  · next h => exact Memory.read_write_other v h

/-- The cells a put leaves listed. -/
theorem Memory.mem_put {m : Memory k} {i : Nat} {v : BitVec k} {p : Nat × BitVec k}
    (h : p ∈ Memory.put i v m) : (p = (i, v) ∧ v ≠ unlisted k) ∨ p ∈ m := by
  unfold Memory.put at h
  split at h
  · exact .inr h
  · next hv =>
    rcases List.mem_cons.1 h with rfl | h
    · exact .inl ⟨rfl, hv⟩
    · exact .inr h

/-- The cells a write leaves listed. -/
theorem Memory.mem_write {m : Memory k} {i : Nat} {v : BitVec k} {p : Nat × BitVec k}
    (h : p ∈ Memory.write m i v) : (p = (i, v) ∧ v ≠ unlisted k) ∨ p ∈ m := by
  induction m with
  | nil => exact Memory.mem_put h
  | cons c m ih =>
    obtain ⟨a, u⟩ := c
    rw [Memory.write] at h
    split at h
    · exact Memory.mem_put h
    · split at h
      · rcases Memory.mem_put h with h | h
        · exact .inl h
        · exact .inr (List.mem_cons_of_mem _ h)
      · rcases List.mem_cons.1 h with rfl | h
        · exact .inr (List.mem_cons_self ..)
        · rcases ih h with h | h
          · exact .inl h
          · exact .inr (List.mem_cons_of_mem _ h)

theorem Memory.wf_put {m : Memory k} {i : Nat} (v : BitVec k) (hm : m.wf = true) (h : ∀ p ∈ m, i < p.1) :
    (Memory.put i v m).wf = true := by
  unfold Memory.put
  split
  · exact hm
  · next hv => exact Memory.wf_cons.2 ⟨hv, h, hm⟩

/-- A write keeps the canonical form. -/
theorem Memory.wf_write {m : Memory k} (i : Nat) (v : BitVec k) (hm : m.wf = true) :
    (Memory.write m i v).wf = true := by
  induction m with
  | nil => exact Memory.wf_put v (by simp) (by simp)
  | cons c m ih =>
    obtain ⟨a, u⟩ := c
    have hc := Memory.wf_cons.1 hm
    rw [Memory.write]
    split
    · next hia =>
      refine Memory.wf_put v hm ?_
      simp only [List.mem_cons, forall_eq_or_imp]
      exact ⟨hia, fun p hp => Nat.lt_trans hia (hc.2.1 p hp)⟩
    · split
      · next hai => subst hai; exact Memory.wf_put v hc.2.2 hc.2.1
      · next hia hai =>
        refine Memory.wf_cons.2 ⟨hc.1, fun p hp => ?_, ih hc.2.2⟩
        rcases Memory.mem_write hp with ⟨rfl, -⟩ | hp
        · have : a ≠ i := hai
          simp only
          omega
        · exact hc.2.1 p hp

/-- A write at an index below `n` keeps every listed cell below `n`. -/
theorem Memory.below_write {m : Memory k} {n i : Nat} (v : BitVec k) (hm : m.below n = true) (hi : i < n) :
    (Memory.write m i v).below n = true := by
  rw [Memory.below_iff] at hm ⊢
  intro p hp
  rcases Memory.mem_write hp with ⟨rfl, -⟩ | hp
  · exact hi
  · exact hm p hp

/-- A bound can be raised. -/
theorem Memory.below_mono {m : Memory k} {n n' : Nat} (hm : m.below n = true) (h : n ≤ n') :
    m.below n' = true := by
  rw [Memory.below_iff] at hm ⊢
  exact fun p hp => Nat.lt_of_lt_of_le (hm p hp) h

/-- A fill keeps the canonical form. -/
theorem Memory.wf_fill {m : Memory k} (f : Nat → BitVec k) (n : Nat) (hm : m.wf = true) :
    (Memory.fill m f n).wf = true := by
  induction n with
  | zero => exact hm
  | succ n ih => exact Memory.wf_write n (f n) ih

/-- What a read gives after a fill: the value filled in below `n`, the cell as before from `n` on. -/
theorem Memory.read_fill {m : Memory k} (f : Nat → BitVec k) (n i : Nat) (hm : m.wf = true) :
    (Memory.fill m f n).read i = if i < n then f i else m.read i := by
  induction n with
  | zero => simp [Memory.fill]
  | succ n ih =>
    rw [Memory.fill, Memory.read_write n i (f n) (Memory.wf_fill f n hm), ih]
    by_cases h : n = i
    · subst h; simp
    · by_cases h' : i < n
      · rw [if_neg h, if_pos h', if_pos (by omega)]
      · rw [if_neg h, if_neg h', if_neg (by omega)]

/-- A fill of the first `n` cells keeps every listed cell below `n'`, where `n ≤ n'`. -/
theorem Memory.below_fill {m : Memory k} (f : Nat → BitVec k) {n n' : Nat} (hm : m.below n' = true)
    (h : n ≤ n') : (Memory.fill m f n).below n' = true := by
  induction n with
  | zero => exact hm
  | succ n ih => exact Memory.below_write (f n) (ih (by omega)) (by omega)

/-- Two canonical buffers that read the same at every index are equal. -/
theorem Memory.ext_read {m m' : Memory k} (hm : m.wf = true) (hm' : m'.wf = true)
    (h : ∀ i, m.read i = m'.read i) : m = m' := by
  induction m generalizing m' with
  | nil =>
    cases m' with
    | nil => rfl
    | cons c m' =>
      obtain ⟨a, v⟩ := c
      have := h a
      simp only [Memory.read, if_true] at this
      exact absurd this.symm (Memory.wf_cons.1 hm').1
  | cons c m ih =>
    obtain ⟨a, v⟩ := c
    cases m' with
    | nil =>
      have := h a
      simp only [Memory.read, if_true] at this
      exact absurd this (Memory.wf_cons.1 hm).1
    | cons c' m' =>
      obtain ⟨a', v'⟩ := c'
      have hc := Memory.wf_cons.1 hm
      have hc' := Memory.wf_cons.1 hm'
      have key : a = a' := by
        rcases Nat.lt_trichotomy a a' with hlt | heq | hlt
        · have := h a
          rw [Memory.read, if_pos rfl, Memory.read, if_neg (by omega),
            Memory.read_of_lt fun p hp => Nat.lt_trans hlt (hc'.2.1 p hp)] at this
          exact absurd this hc.1
        · exact heq
        · have := h a'
          rw [Memory.read, if_neg (by omega), Memory.read, if_pos rfl,
            Memory.read_of_lt fun p hp => Nat.lt_trans hlt (hc.2.1 p hp)] at this
          exact absurd this.symm hc'.1
      subst key
      have hv : v = v' := by simpa [Memory.read] using h a
      subst hv
      congr 1
      refine ih hc.2.2 hc'.2.2 fun i => ?_
      by_cases hi : a = i
      · subst hi; rw [Memory.read_of_lt hc.2.1, Memory.read_of_lt hc'.2.1]
      · simpa [Memory.read, hi] using h i

end Sys2Proof.Machine
end

