-- ==== Sys2Proof/Laws/State.lean ====
section
/-! SUPPORT. What each named update of the state does to each field: one simp lemma per field per update, so
that no proof unfolds a record update. -/

namespace Sys2Proof.Machine

/-! ### The response that ends a command -/

@[simp] theorem respond_inputs (s : State) (e : Err) (a : BitVec 8) (v : Value) : (s.respond e a v).inputs = s.inputs := rfl
@[simp] theorem respond_trace (s : State) (e : Err) (a : BitVec 8) (v : Value) : (s.respond e a v).trace = s.trace ++ [responseWord e a v] := rfl
@[simp] theorem respond_maxN (s : State) (e : Err) (a : BitVec 8) (v : Value) : (s.respond e a v).maxN = s.maxN := rfl
@[simp] theorem respond_cfg (s : State) (e : Err) (a : BitVec 8) (v : Value) : (s.respond e a v).cfg = s.cfg := rfl
@[simp] theorem respond_w (s : State) (e : Err) (a : BitVec 8) (v : Value) : (s.respond e a v).w = s.w := rfl
@[simp] theorem respond_h (s : State) (e : Err) (a : BitVec 8) (v : Value) : (s.respond e a v).h = s.h := rfl
@[simp] theorem respond_n (s : State) (e : Err) (a : BitVec 8) (v : Value) : (s.respond e a v).n = s.n := rfl
@[simp] theorem respond_pkW (s : State) (e : Err) (a : BitVec 8) (v : Value) : (s.respond e a v).pkW = s.pkW := rfl
@[simp] theorem respond_pkAcc (s : State) (e : Err) (a : BitVec 8) (v : Value) : (s.respond e a v).pkAcc = s.pkAcc := rfl
@[simp] theorem respond_pkCnt (s : State) (e : Err) (a : BitVec 8) (v : Value) : (s.respond e a v).pkCnt = s.pkCnt := rfl
@[simp] theorem respond_obuf (s : State) (e : Err) (a : BitVec 8) (v : Value) : (s.respond e a v).obuf = s.obuf := rfl
@[simp] theorem respond_olen (s : State) (e : Err) (a : BitVec 8) (v : Value) : (s.respond e a v).olen = s.olen := rfl
@[simp] theorem respond_upW (s : State) (e : Err) (a : BitVec 8) (v : Value) : (s.respond e a v).upW = s.upW := rfl
@[simp] theorem respond_upAcc (s : State) (e : Err) (a : BitVec 8) (v : Value) : (s.respond e a v).upAcc = s.upAcc := rfl
@[simp] theorem respond_upCnt (s : State) (e : Err) (a : BitVec 8) (v : Value) : (s.respond e a v).upCnt = s.upCnt := rfl
@[simp] theorem respond_ibuf (s : State) (e : Err) (a : BitVec 8) (v : Value) : (s.respond e a v).ibuf = s.ibuf := rfl
@[simp] theorem respond_ilen (s : State) (e : Err) (a : BitVec 8) (v : Value) : (s.respond e a v).ilen = s.ilen := rfl
@[simp] theorem respond_iptr (s : State) (e : Err) (a : BitVec 8) (v : Value) : (s.respond e a v).iptr = s.iptr := rfl
@[simp] theorem respond_fin (s : State) (e : Err) (a : BitVec 8) (v : Value) : (s.respond e a v).fin = s.fin := rfl
@[simp] theorem respond_cprev (s : State) (e : Err) (a : BitVec 8) (v : Value) : (s.respond e a v).cprev = s.cprev := rfl
@[simp] theorem respond_cwidth (s : State) (e : Err) (a : BitVec 8) (v : Value) : (s.respond e a v).cwidth = s.cwidth := rfl
@[simp] theorem respond_csize (s : State) (e : Err) (a : BitVec 8) (v : Value) : (s.respond e a v).csize = s.csize := rfl
@[simp] theorem respond_minPix (s : State) (e : Err) (a : BitVec 8) (v : Value) : (s.respond e a v).minPix = s.minPix := rfl
@[simp] theorem respond_maxPix (s : State) (e : Err) (a : BitVec 8) (v : Value) : (s.respond e a v).maxPix = s.maxPix := rfl
@[simp] theorem respond_dprev (s : State) (e : Err) (a : BitVec 8) (v : Value) : (s.respond e a v).dprev = s.dprev := rfl
@[simp] theorem respond_fout (s : State) (e : Err) (a : BitVec 8) (v : Value) : (s.respond e a v).fout = s.fout := rfl
@[simp] theorem respond_lastErr (s : State) (e : Err) (a : BitVec 8) (v : Value) : (s.respond e a v).lastErr = e.code := rfl

/-! ### The reset of all state -/

@[simp] theorem clear_inputs (s : State) : (s.clear).inputs = s.inputs := rfl
@[simp] theorem clear_trace (s : State) : (s.clear).trace = s.trace := rfl
@[simp] theorem clear_maxN (s : State) : (s.clear).maxN = s.maxN := rfl
@[simp] theorem clear_cfg (s : State) : (s.clear).cfg = false := rfl
@[simp] theorem clear_w (s : State) : (s.clear).w = 0 := rfl
@[simp] theorem clear_h (s : State) : (s.clear).h = 0 := rfl
@[simp] theorem clear_n (s : State) : (s.clear).n = 0 := rfl
@[simp] theorem clear_pkW (s : State) : (s.clear).pkW = 0 := rfl
@[simp] theorem clear_pkAcc (s : State) : (s.clear).pkAcc = 0 := rfl
@[simp] theorem clear_pkCnt (s : State) : (s.clear).pkCnt = 0 := rfl
@[simp] theorem clear_obuf (s : State) : (s.clear).obuf = [] := rfl
@[simp] theorem clear_olen (s : State) : (s.clear).olen = 0 := rfl
@[simp] theorem clear_upW (s : State) : (s.clear).upW = 0 := rfl
@[simp] theorem clear_upAcc (s : State) : (s.clear).upAcc = 0 := rfl
@[simp] theorem clear_upCnt (s : State) : (s.clear).upCnt = 0 := rfl
@[simp] theorem clear_ibuf (s : State) : (s.clear).ibuf = [] := rfl
@[simp] theorem clear_ilen (s : State) : (s.clear).ilen = 0 := rfl
@[simp] theorem clear_iptr (s : State) : (s.clear).iptr = 0 := rfl
@[simp] theorem clear_fin (s : State) : (s.clear).fin = [] := rfl
@[simp] theorem clear_cprev (s : State) : (s.clear).cprev = [] := rfl
@[simp] theorem clear_cwidth (s : State) : (s.clear).cwidth = 0 := rfl
@[simp] theorem clear_csize (s : State) : (s.clear).csize = 0 := rfl
@[simp] theorem clear_minPix (s : State) : (s.clear).minPix = 0xFFFF := rfl
@[simp] theorem clear_maxPix (s : State) : (s.clear).maxPix = 0x0000 := rfl
@[simp] theorem clear_dprev (s : State) : (s.clear).dprev = [] := rfl
@[simp] theorem clear_fout (s : State) : (s.clear).fout = [] := rfl
@[simp] theorem clear_lastErr (s : State) : (s.clear).lastErr = 0 := rfl

@[simp] theorem resetWith_inputs (m : Nat) : (State.resetWith m).inputs = [] := rfl
@[simp] theorem resetWith_trace (m : Nat) : (State.resetWith m).trace = [] := rfl
@[simp] theorem resetWith_maxN (m : Nat) : (State.resetWith m).maxN = m := rfl
@[simp] theorem resetWith_cfg (m : Nat) : (State.resetWith m).cfg = false := rfl
@[simp] theorem resetWith_w (m : Nat) : (State.resetWith m).w = 0 := rfl
@[simp] theorem resetWith_h (m : Nat) : (State.resetWith m).h = 0 := rfl
@[simp] theorem resetWith_n (m : Nat) : (State.resetWith m).n = 0 := rfl
@[simp] theorem resetWith_pkW (m : Nat) : (State.resetWith m).pkW = 0 := rfl
@[simp] theorem resetWith_pkAcc (m : Nat) : (State.resetWith m).pkAcc = 0 := rfl
@[simp] theorem resetWith_pkCnt (m : Nat) : (State.resetWith m).pkCnt = 0 := rfl
@[simp] theorem resetWith_obuf (m : Nat) : (State.resetWith m).obuf = [] := rfl
@[simp] theorem resetWith_olen (m : Nat) : (State.resetWith m).olen = 0 := rfl
@[simp] theorem resetWith_upW (m : Nat) : (State.resetWith m).upW = 0 := rfl
@[simp] theorem resetWith_upAcc (m : Nat) : (State.resetWith m).upAcc = 0 := rfl
@[simp] theorem resetWith_upCnt (m : Nat) : (State.resetWith m).upCnt = 0 := rfl
@[simp] theorem resetWith_ibuf (m : Nat) : (State.resetWith m).ibuf = [] := rfl
@[simp] theorem resetWith_ilen (m : Nat) : (State.resetWith m).ilen = 0 := rfl
@[simp] theorem resetWith_iptr (m : Nat) : (State.resetWith m).iptr = 0 := rfl
@[simp] theorem resetWith_fin (m : Nat) : (State.resetWith m).fin = [] := rfl
@[simp] theorem resetWith_cprev (m : Nat) : (State.resetWith m).cprev = [] := rfl
@[simp] theorem resetWith_cwidth (m : Nat) : (State.resetWith m).cwidth = 0 := rfl
@[simp] theorem resetWith_csize (m : Nat) : (State.resetWith m).csize = 0 := rfl
@[simp] theorem resetWith_minPix (m : Nat) : (State.resetWith m).minPix = 0xFFFF := rfl
@[simp] theorem resetWith_maxPix (m : Nat) : (State.resetWith m).maxPix = 0x0000 := rfl
@[simp] theorem resetWith_dprev (m : Nat) : (State.resetWith m).dprev = [] := rfl
@[simp] theorem resetWith_fout (m : Nat) : (State.resetWith m).fout = [] := rfl
@[simp] theorem resetWith_lastErr (m : Nat) : (State.resetWith m).lastErr = 0 := rfl

/-! ### The packer -/

@[simp] theorem pkInit_inputs (s : State) (k : Nat) : (s.pkInit k).inputs = s.inputs := rfl
@[simp] theorem pkInit_trace (s : State) (k : Nat) : (s.pkInit k).trace = s.trace := rfl
@[simp] theorem pkInit_maxN (s : State) (k : Nat) : (s.pkInit k).maxN = s.maxN := rfl
@[simp] theorem pkInit_cfg (s : State) (k : Nat) : (s.pkInit k).cfg = s.cfg := rfl
@[simp] theorem pkInit_w (s : State) (k : Nat) : (s.pkInit k).w = s.w := rfl
@[simp] theorem pkInit_h (s : State) (k : Nat) : (s.pkInit k).h = s.h := rfl
@[simp] theorem pkInit_n (s : State) (k : Nat) : (s.pkInit k).n = s.n := rfl
@[simp] theorem pkInit_pkW (s : State) (k : Nat) : (s.pkInit k).pkW = k := rfl
@[simp] theorem pkInit_pkAcc (s : State) (k : Nat) : (s.pkInit k).pkAcc = 0 := rfl
@[simp] theorem pkInit_pkCnt (s : State) (k : Nat) : (s.pkInit k).pkCnt = 0 := rfl
@[simp] theorem pkInit_obuf (s : State) (k : Nat) : (s.pkInit k).obuf = s.obuf := rfl
@[simp] theorem pkInit_olen (s : State) (k : Nat) : (s.pkInit k).olen = s.olen := rfl
@[simp] theorem pkInit_upW (s : State) (k : Nat) : (s.pkInit k).upW = s.upW := rfl
@[simp] theorem pkInit_upAcc (s : State) (k : Nat) : (s.pkInit k).upAcc = s.upAcc := rfl
@[simp] theorem pkInit_upCnt (s : State) (k : Nat) : (s.pkInit k).upCnt = s.upCnt := rfl
@[simp] theorem pkInit_ibuf (s : State) (k : Nat) : (s.pkInit k).ibuf = s.ibuf := rfl
@[simp] theorem pkInit_ilen (s : State) (k : Nat) : (s.pkInit k).ilen = s.ilen := rfl
@[simp] theorem pkInit_iptr (s : State) (k : Nat) : (s.pkInit k).iptr = s.iptr := rfl
@[simp] theorem pkInit_fin (s : State) (k : Nat) : (s.pkInit k).fin = s.fin := rfl
@[simp] theorem pkInit_cprev (s : State) (k : Nat) : (s.pkInit k).cprev = s.cprev := rfl
@[simp] theorem pkInit_cwidth (s : State) (k : Nat) : (s.pkInit k).cwidth = s.cwidth := rfl
@[simp] theorem pkInit_csize (s : State) (k : Nat) : (s.pkInit k).csize = s.csize := rfl
@[simp] theorem pkInit_minPix (s : State) (k : Nat) : (s.pkInit k).minPix = s.minPix := rfl
@[simp] theorem pkInit_maxPix (s : State) (k : Nat) : (s.pkInit k).maxPix = s.maxPix := rfl
@[simp] theorem pkInit_dprev (s : State) (k : Nat) : (s.pkInit k).dprev = s.dprev := rfl
@[simp] theorem pkInit_fout (s : State) (k : Nat) : (s.pkInit k).fout = s.fout := rfl
@[simp] theorem pkInit_lastErr (s : State) (k : Nat) : (s.pkInit k).lastErr = s.lastErr := rfl

@[simp] theorem emit_inputs (s : State) (b : Byte) : (s.emit b).inputs = s.inputs := rfl
@[simp] theorem emit_trace (s : State) (b : Byte) : (s.emit b).trace = s.trace := rfl
@[simp] theorem emit_maxN (s : State) (b : Byte) : (s.emit b).maxN = s.maxN := rfl
@[simp] theorem emit_cfg (s : State) (b : Byte) : (s.emit b).cfg = s.cfg := rfl
@[simp] theorem emit_w (s : State) (b : Byte) : (s.emit b).w = s.w := rfl
@[simp] theorem emit_h (s : State) (b : Byte) : (s.emit b).h = s.h := rfl
@[simp] theorem emit_n (s : State) (b : Byte) : (s.emit b).n = s.n := rfl
@[simp] theorem emit_pkW (s : State) (b : Byte) : (s.emit b).pkW = s.pkW := rfl
@[simp] theorem emit_pkAcc (s : State) (b : Byte) : (s.emit b).pkAcc = s.pkAcc := rfl
@[simp] theorem emit_pkCnt (s : State) (b : Byte) : (s.emit b).pkCnt = s.pkCnt := rfl
@[simp] theorem emit_obuf (s : State) (b : Byte) : (s.emit b).obuf = Memory.write s.obuf s.olen b := rfl
@[simp] theorem emit_olen (s : State) (b : Byte) : (s.emit b).olen = s.olen + 1 := rfl
@[simp] theorem emit_upW (s : State) (b : Byte) : (s.emit b).upW = s.upW := rfl
@[simp] theorem emit_upAcc (s : State) (b : Byte) : (s.emit b).upAcc = s.upAcc := rfl
@[simp] theorem emit_upCnt (s : State) (b : Byte) : (s.emit b).upCnt = s.upCnt := rfl
@[simp] theorem emit_ibuf (s : State) (b : Byte) : (s.emit b).ibuf = s.ibuf := rfl
@[simp] theorem emit_ilen (s : State) (b : Byte) : (s.emit b).ilen = s.ilen := rfl
@[simp] theorem emit_iptr (s : State) (b : Byte) : (s.emit b).iptr = s.iptr := rfl
@[simp] theorem emit_fin (s : State) (b : Byte) : (s.emit b).fin = s.fin := rfl
@[simp] theorem emit_cprev (s : State) (b : Byte) : (s.emit b).cprev = s.cprev := rfl
@[simp] theorem emit_cwidth (s : State) (b : Byte) : (s.emit b).cwidth = s.cwidth := rfl
@[simp] theorem emit_csize (s : State) (b : Byte) : (s.emit b).csize = s.csize := rfl
@[simp] theorem emit_minPix (s : State) (b : Byte) : (s.emit b).minPix = s.minPix := rfl
@[simp] theorem emit_maxPix (s : State) (b : Byte) : (s.emit b).maxPix = s.maxPix := rfl
@[simp] theorem emit_dprev (s : State) (b : Byte) : (s.emit b).dprev = s.dprev := rfl
@[simp] theorem emit_fout (s : State) (b : Byte) : (s.emit b).fout = s.fout := rfl
@[simp] theorem emit_lastErr (s : State) (b : Byte) : (s.emit b).lastErr = s.lastErr := rfl

@[simp] theorem pkPlace_inputs (s : State) (v : Int) : (s.pkPlace v).inputs = s.inputs := rfl
@[simp] theorem pkPlace_trace (s : State) (v : Int) : (s.pkPlace v).trace = s.trace := rfl
@[simp] theorem pkPlace_maxN (s : State) (v : Int) : (s.pkPlace v).maxN = s.maxN := rfl
@[simp] theorem pkPlace_cfg (s : State) (v : Int) : (s.pkPlace v).cfg = s.cfg := rfl
@[simp] theorem pkPlace_w (s : State) (v : Int) : (s.pkPlace v).w = s.w := rfl
@[simp] theorem pkPlace_h (s : State) (v : Int) : (s.pkPlace v).h = s.h := rfl
@[simp] theorem pkPlace_n (s : State) (v : Int) : (s.pkPlace v).n = s.n := rfl
@[simp] theorem pkPlace_pkW (s : State) (v : Int) : (s.pkPlace v).pkW = s.pkW := rfl
@[simp] theorem pkPlace_pkAcc (s : State) (v : Int) : (s.pkPlace v).pkAcc = s.pkAcc ||| (BitVec.ofNat 40 (enc s.pkW v) <<< (40 - s.pkCnt - s.pkW)) := rfl
@[simp] theorem pkPlace_pkCnt (s : State) (v : Int) : (s.pkPlace v).pkCnt = s.pkCnt + s.pkW := rfl
@[simp] theorem pkPlace_obuf (s : State) (v : Int) : (s.pkPlace v).obuf = s.obuf := rfl
@[simp] theorem pkPlace_olen (s : State) (v : Int) : (s.pkPlace v).olen = s.olen := rfl
@[simp] theorem pkPlace_upW (s : State) (v : Int) : (s.pkPlace v).upW = s.upW := rfl
@[simp] theorem pkPlace_upAcc (s : State) (v : Int) : (s.pkPlace v).upAcc = s.upAcc := rfl
@[simp] theorem pkPlace_upCnt (s : State) (v : Int) : (s.pkPlace v).upCnt = s.upCnt := rfl
@[simp] theorem pkPlace_ibuf (s : State) (v : Int) : (s.pkPlace v).ibuf = s.ibuf := rfl
@[simp] theorem pkPlace_ilen (s : State) (v : Int) : (s.pkPlace v).ilen = s.ilen := rfl
@[simp] theorem pkPlace_iptr (s : State) (v : Int) : (s.pkPlace v).iptr = s.iptr := rfl
@[simp] theorem pkPlace_fin (s : State) (v : Int) : (s.pkPlace v).fin = s.fin := rfl
@[simp] theorem pkPlace_cprev (s : State) (v : Int) : (s.pkPlace v).cprev = s.cprev := rfl
@[simp] theorem pkPlace_cwidth (s : State) (v : Int) : (s.pkPlace v).cwidth = s.cwidth := rfl
@[simp] theorem pkPlace_csize (s : State) (v : Int) : (s.pkPlace v).csize = s.csize := rfl
@[simp] theorem pkPlace_minPix (s : State) (v : Int) : (s.pkPlace v).minPix = s.minPix := rfl
@[simp] theorem pkPlace_maxPix (s : State) (v : Int) : (s.pkPlace v).maxPix = s.maxPix := rfl
@[simp] theorem pkPlace_dprev (s : State) (v : Int) : (s.pkPlace v).dprev = s.dprev := rfl
@[simp] theorem pkPlace_fout (s : State) (v : Int) : (s.pkPlace v).fout = s.fout := rfl
@[simp] theorem pkPlace_lastErr (s : State) (v : Int) : (s.pkPlace v).lastErr = s.lastErr := rfl

@[simp] theorem pkShiftByte_inputs (s : State) : (s.pkShiftByte).inputs = s.inputs := rfl
@[simp] theorem pkShiftByte_trace (s : State) : (s.pkShiftByte).trace = s.trace := rfl
@[simp] theorem pkShiftByte_maxN (s : State) : (s.pkShiftByte).maxN = s.maxN := rfl
@[simp] theorem pkShiftByte_cfg (s : State) : (s.pkShiftByte).cfg = s.cfg := rfl
@[simp] theorem pkShiftByte_w (s : State) : (s.pkShiftByte).w = s.w := rfl
@[simp] theorem pkShiftByte_h (s : State) : (s.pkShiftByte).h = s.h := rfl
@[simp] theorem pkShiftByte_n (s : State) : (s.pkShiftByte).n = s.n := rfl
@[simp] theorem pkShiftByte_pkW (s : State) : (s.pkShiftByte).pkW = s.pkW := rfl
@[simp] theorem pkShiftByte_pkAcc (s : State) : (s.pkShiftByte).pkAcc = s.pkAcc <<< 8 := rfl
@[simp] theorem pkShiftByte_pkCnt (s : State) : (s.pkShiftByte).pkCnt = s.pkCnt - 8 := rfl
@[simp] theorem pkShiftByte_obuf (s : State) : (s.pkShiftByte).obuf = Memory.write s.obuf s.olen s.pkTop := rfl
@[simp] theorem pkShiftByte_olen (s : State) : (s.pkShiftByte).olen = s.olen + 1 := rfl
@[simp] theorem pkShiftByte_upW (s : State) : (s.pkShiftByte).upW = s.upW := rfl
@[simp] theorem pkShiftByte_upAcc (s : State) : (s.pkShiftByte).upAcc = s.upAcc := rfl
@[simp] theorem pkShiftByte_upCnt (s : State) : (s.pkShiftByte).upCnt = s.upCnt := rfl
@[simp] theorem pkShiftByte_ibuf (s : State) : (s.pkShiftByte).ibuf = s.ibuf := rfl
@[simp] theorem pkShiftByte_ilen (s : State) : (s.pkShiftByte).ilen = s.ilen := rfl
@[simp] theorem pkShiftByte_iptr (s : State) : (s.pkShiftByte).iptr = s.iptr := rfl
@[simp] theorem pkShiftByte_fin (s : State) : (s.pkShiftByte).fin = s.fin := rfl
@[simp] theorem pkShiftByte_cprev (s : State) : (s.pkShiftByte).cprev = s.cprev := rfl
@[simp] theorem pkShiftByte_cwidth (s : State) : (s.pkShiftByte).cwidth = s.cwidth := rfl
@[simp] theorem pkShiftByte_csize (s : State) : (s.pkShiftByte).csize = s.csize := rfl
@[simp] theorem pkShiftByte_minPix (s : State) : (s.pkShiftByte).minPix = s.minPix := rfl
@[simp] theorem pkShiftByte_maxPix (s : State) : (s.pkShiftByte).maxPix = s.maxPix := rfl
@[simp] theorem pkShiftByte_dprev (s : State) : (s.pkShiftByte).dprev = s.dprev := rfl
@[simp] theorem pkShiftByte_fout (s : State) : (s.pkShiftByte).fout = s.fout := rfl
@[simp] theorem pkShiftByte_lastErr (s : State) : (s.pkShiftByte).lastErr = s.lastErr := rfl

/-! ### The unpacker -/

@[simp] theorem upInit_inputs (s : State) (k : Nat) : (s.upInit k).inputs = s.inputs := rfl
@[simp] theorem upInit_trace (s : State) (k : Nat) : (s.upInit k).trace = s.trace := rfl
@[simp] theorem upInit_maxN (s : State) (k : Nat) : (s.upInit k).maxN = s.maxN := rfl
@[simp] theorem upInit_cfg (s : State) (k : Nat) : (s.upInit k).cfg = s.cfg := rfl
@[simp] theorem upInit_w (s : State) (k : Nat) : (s.upInit k).w = s.w := rfl
@[simp] theorem upInit_h (s : State) (k : Nat) : (s.upInit k).h = s.h := rfl
@[simp] theorem upInit_n (s : State) (k : Nat) : (s.upInit k).n = s.n := rfl
@[simp] theorem upInit_pkW (s : State) (k : Nat) : (s.upInit k).pkW = s.pkW := rfl
@[simp] theorem upInit_pkAcc (s : State) (k : Nat) : (s.upInit k).pkAcc = s.pkAcc := rfl
@[simp] theorem upInit_pkCnt (s : State) (k : Nat) : (s.upInit k).pkCnt = s.pkCnt := rfl
@[simp] theorem upInit_obuf (s : State) (k : Nat) : (s.upInit k).obuf = s.obuf := rfl
@[simp] theorem upInit_olen (s : State) (k : Nat) : (s.upInit k).olen = s.olen := rfl
@[simp] theorem upInit_upW (s : State) (k : Nat) : (s.upInit k).upW = k := rfl
@[simp] theorem upInit_upAcc (s : State) (k : Nat) : (s.upInit k).upAcc = 0 := rfl
@[simp] theorem upInit_upCnt (s : State) (k : Nat) : (s.upInit k).upCnt = 0 := rfl
@[simp] theorem upInit_ibuf (s : State) (k : Nat) : (s.upInit k).ibuf = s.ibuf := rfl
@[simp] theorem upInit_ilen (s : State) (k : Nat) : (s.upInit k).ilen = s.ilen := rfl
@[simp] theorem upInit_iptr (s : State) (k : Nat) : (s.upInit k).iptr = s.iptr := rfl
@[simp] theorem upInit_fin (s : State) (k : Nat) : (s.upInit k).fin = s.fin := rfl
@[simp] theorem upInit_cprev (s : State) (k : Nat) : (s.upInit k).cprev = s.cprev := rfl
@[simp] theorem upInit_cwidth (s : State) (k : Nat) : (s.upInit k).cwidth = s.cwidth := rfl
@[simp] theorem upInit_csize (s : State) (k : Nat) : (s.upInit k).csize = s.csize := rfl
@[simp] theorem upInit_minPix (s : State) (k : Nat) : (s.upInit k).minPix = s.minPix := rfl
@[simp] theorem upInit_maxPix (s : State) (k : Nat) : (s.upInit k).maxPix = s.maxPix := rfl
@[simp] theorem upInit_dprev (s : State) (k : Nat) : (s.upInit k).dprev = s.dprev := rfl
@[simp] theorem upInit_fout (s : State) (k : Nat) : (s.upInit k).fout = s.fout := rfl
@[simp] theorem upInit_lastErr (s : State) (k : Nat) : (s.upInit k).lastErr = s.lastErr := rfl

@[simp] theorem upClose_inputs (s : State) : (s.upClose).inputs = s.inputs := rfl
@[simp] theorem upClose_trace (s : State) : (s.upClose).trace = s.trace := rfl
@[simp] theorem upClose_maxN (s : State) : (s.upClose).maxN = s.maxN := rfl
@[simp] theorem upClose_cfg (s : State) : (s.upClose).cfg = s.cfg := rfl
@[simp] theorem upClose_w (s : State) : (s.upClose).w = s.w := rfl
@[simp] theorem upClose_h (s : State) : (s.upClose).h = s.h := rfl
@[simp] theorem upClose_n (s : State) : (s.upClose).n = s.n := rfl
@[simp] theorem upClose_pkW (s : State) : (s.upClose).pkW = s.pkW := rfl
@[simp] theorem upClose_pkAcc (s : State) : (s.upClose).pkAcc = s.pkAcc := rfl
@[simp] theorem upClose_pkCnt (s : State) : (s.upClose).pkCnt = s.pkCnt := rfl
@[simp] theorem upClose_obuf (s : State) : (s.upClose).obuf = s.obuf := rfl
@[simp] theorem upClose_olen (s : State) : (s.upClose).olen = s.olen := rfl
@[simp] theorem upClose_upW (s : State) : (s.upClose).upW = 0 := rfl
@[simp] theorem upClose_upAcc (s : State) : (s.upClose).upAcc = 0 := rfl
@[simp] theorem upClose_upCnt (s : State) : (s.upClose).upCnt = 0 := rfl
@[simp] theorem upClose_ibuf (s : State) : (s.upClose).ibuf = s.ibuf := rfl
@[simp] theorem upClose_ilen (s : State) : (s.upClose).ilen = s.ilen := rfl
@[simp] theorem upClose_iptr (s : State) : (s.upClose).iptr = s.iptr := rfl
@[simp] theorem upClose_fin (s : State) : (s.upClose).fin = s.fin := rfl
@[simp] theorem upClose_cprev (s : State) : (s.upClose).cprev = s.cprev := rfl
@[simp] theorem upClose_cwidth (s : State) : (s.upClose).cwidth = s.cwidth := rfl
@[simp] theorem upClose_csize (s : State) : (s.upClose).csize = s.csize := rfl
@[simp] theorem upClose_minPix (s : State) : (s.upClose).minPix = s.minPix := rfl
@[simp] theorem upClose_maxPix (s : State) : (s.upClose).maxPix = s.maxPix := rfl
@[simp] theorem upClose_dprev (s : State) : (s.upClose).dprev = s.dprev := rfl
@[simp] theorem upClose_fout (s : State) : (s.upClose).fout = s.fout := rfl
@[simp] theorem upClose_lastErr (s : State) : (s.upClose).lastErr = s.lastErr := rfl

@[simp] theorem upTakeByte_inputs (s : State) : (s.upTakeByte).inputs = s.inputs := rfl
@[simp] theorem upTakeByte_trace (s : State) : (s.upTakeByte).trace = s.trace := rfl
@[simp] theorem upTakeByte_maxN (s : State) : (s.upTakeByte).maxN = s.maxN := rfl
@[simp] theorem upTakeByte_cfg (s : State) : (s.upTakeByte).cfg = s.cfg := rfl
@[simp] theorem upTakeByte_w (s : State) : (s.upTakeByte).w = s.w := rfl
@[simp] theorem upTakeByte_h (s : State) : (s.upTakeByte).h = s.h := rfl
@[simp] theorem upTakeByte_n (s : State) : (s.upTakeByte).n = s.n := rfl
@[simp] theorem upTakeByte_pkW (s : State) : (s.upTakeByte).pkW = s.pkW := rfl
@[simp] theorem upTakeByte_pkAcc (s : State) : (s.upTakeByte).pkAcc = s.pkAcc := rfl
@[simp] theorem upTakeByte_pkCnt (s : State) : (s.upTakeByte).pkCnt = s.pkCnt := rfl
@[simp] theorem upTakeByte_obuf (s : State) : (s.upTakeByte).obuf = s.obuf := rfl
@[simp] theorem upTakeByte_olen (s : State) : (s.upTakeByte).olen = s.olen := rfl
@[simp] theorem upTakeByte_upW (s : State) : (s.upTakeByte).upW = s.upW := rfl
@[simp] theorem upTakeByte_upAcc (s : State) : (s.upTakeByte).upAcc = s.upAcc ||| (BitVec.ofNat 40 (Memory.read s.ibuf s.iptr).toNat <<< (40 - s.upCnt - 8)) := rfl
@[simp] theorem upTakeByte_upCnt (s : State) : (s.upTakeByte).upCnt = s.upCnt + 8 := rfl
@[simp] theorem upTakeByte_ibuf (s : State) : (s.upTakeByte).ibuf = s.ibuf := rfl
@[simp] theorem upTakeByte_ilen (s : State) : (s.upTakeByte).ilen = s.ilen := rfl
@[simp] theorem upTakeByte_iptr (s : State) : (s.upTakeByte).iptr = s.iptr + 1 := rfl
@[simp] theorem upTakeByte_fin (s : State) : (s.upTakeByte).fin = s.fin := rfl
@[simp] theorem upTakeByte_cprev (s : State) : (s.upTakeByte).cprev = s.cprev := rfl
@[simp] theorem upTakeByte_cwidth (s : State) : (s.upTakeByte).cwidth = s.cwidth := rfl
@[simp] theorem upTakeByte_csize (s : State) : (s.upTakeByte).csize = s.csize := rfl
@[simp] theorem upTakeByte_minPix (s : State) : (s.upTakeByte).minPix = s.minPix := rfl
@[simp] theorem upTakeByte_maxPix (s : State) : (s.upTakeByte).maxPix = s.maxPix := rfl
@[simp] theorem upTakeByte_dprev (s : State) : (s.upTakeByte).dprev = s.dprev := rfl
@[simp] theorem upTakeByte_fout (s : State) : (s.upTakeByte).fout = s.fout := rfl
@[simp] theorem upTakeByte_lastErr (s : State) : (s.upTakeByte).lastErr = s.lastErr := rfl

@[simp] theorem upTake_inputs (s : State) : (s.upTake.2).inputs = s.inputs := rfl
@[simp] theorem upTake_trace (s : State) : (s.upTake.2).trace = s.trace := rfl
@[simp] theorem upTake_maxN (s : State) : (s.upTake.2).maxN = s.maxN := rfl
@[simp] theorem upTake_cfg (s : State) : (s.upTake.2).cfg = s.cfg := rfl
@[simp] theorem upTake_w (s : State) : (s.upTake.2).w = s.w := rfl
@[simp] theorem upTake_h (s : State) : (s.upTake.2).h = s.h := rfl
@[simp] theorem upTake_n (s : State) : (s.upTake.2).n = s.n := rfl
@[simp] theorem upTake_pkW (s : State) : (s.upTake.2).pkW = s.pkW := rfl
@[simp] theorem upTake_pkAcc (s : State) : (s.upTake.2).pkAcc = s.pkAcc := rfl
@[simp] theorem upTake_pkCnt (s : State) : (s.upTake.2).pkCnt = s.pkCnt := rfl
@[simp] theorem upTake_obuf (s : State) : (s.upTake.2).obuf = s.obuf := rfl
@[simp] theorem upTake_olen (s : State) : (s.upTake.2).olen = s.olen := rfl
@[simp] theorem upTake_upW (s : State) : (s.upTake.2).upW = s.upW := rfl
@[simp] theorem upTake_upAcc (s : State) : (s.upTake.2).upAcc = s.upAcc <<< s.upW := rfl
@[simp] theorem upTake_upCnt (s : State) : (s.upTake.2).upCnt = s.upCnt - s.upW := rfl
@[simp] theorem upTake_ibuf (s : State) : (s.upTake.2).ibuf = s.ibuf := rfl
@[simp] theorem upTake_ilen (s : State) : (s.upTake.2).ilen = s.ilen := rfl
@[simp] theorem upTake_iptr (s : State) : (s.upTake.2).iptr = s.iptr := rfl
@[simp] theorem upTake_fin (s : State) : (s.upTake.2).fin = s.fin := rfl
@[simp] theorem upTake_cprev (s : State) : (s.upTake.2).cprev = s.cprev := rfl
@[simp] theorem upTake_cwidth (s : State) : (s.upTake.2).cwidth = s.cwidth := rfl
@[simp] theorem upTake_csize (s : State) : (s.upTake.2).csize = s.csize := rfl
@[simp] theorem upTake_minPix (s : State) : (s.upTake.2).minPix = s.minPix := rfl
@[simp] theorem upTake_maxPix (s : State) : (s.upTake.2).maxPix = s.maxPix := rfl
@[simp] theorem upTake_dprev (s : State) : (s.upTake.2).dprev = s.dprev := rfl
@[simp] theorem upTake_fout (s : State) : (s.upTake.2).fout = s.fout := rfl
@[simp] theorem upTake_lastErr (s : State) : (s.upTake.2).lastErr = s.lastErr := rfl

/-! ### The frame buffers -/

@[simp] theorem updateCprev_inputs (s : State) : (s.updateCprev).inputs = s.inputs := rfl
@[simp] theorem updateCprev_trace (s : State) : (s.updateCprev).trace = s.trace := rfl
@[simp] theorem updateCprev_maxN (s : State) : (s.updateCprev).maxN = s.maxN := rfl
@[simp] theorem updateCprev_cfg (s : State) : (s.updateCprev).cfg = s.cfg := rfl
@[simp] theorem updateCprev_w (s : State) : (s.updateCprev).w = s.w := rfl
@[simp] theorem updateCprev_h (s : State) : (s.updateCprev).h = s.h := rfl
@[simp] theorem updateCprev_n (s : State) : (s.updateCprev).n = s.n := rfl
@[simp] theorem updateCprev_pkW (s : State) : (s.updateCprev).pkW = s.pkW := rfl
@[simp] theorem updateCprev_pkAcc (s : State) : (s.updateCprev).pkAcc = s.pkAcc := rfl
@[simp] theorem updateCprev_pkCnt (s : State) : (s.updateCprev).pkCnt = s.pkCnt := rfl
@[simp] theorem updateCprev_obuf (s : State) : (s.updateCprev).obuf = s.obuf := rfl
@[simp] theorem updateCprev_olen (s : State) : (s.updateCprev).olen = s.olen := rfl
@[simp] theorem updateCprev_upW (s : State) : (s.updateCprev).upW = s.upW := rfl
@[simp] theorem updateCprev_upAcc (s : State) : (s.updateCprev).upAcc = s.upAcc := rfl
@[simp] theorem updateCprev_upCnt (s : State) : (s.updateCprev).upCnt = s.upCnt := rfl
@[simp] theorem updateCprev_ibuf (s : State) : (s.updateCprev).ibuf = s.ibuf := rfl
@[simp] theorem updateCprev_ilen (s : State) : (s.updateCprev).ilen = s.ilen := rfl
@[simp] theorem updateCprev_iptr (s : State) : (s.updateCprev).iptr = s.iptr := rfl
@[simp] theorem updateCprev_fin (s : State) : (s.updateCprev).fin = s.fin := rfl
@[simp] theorem updateCprev_cprev (s : State) : (s.updateCprev).cprev = Memory.fill s.cprev (Memory.read s.fin) (s.h * s.w) := rfl
@[simp] theorem updateCprev_cwidth (s : State) : (s.updateCprev).cwidth = s.cwidth := rfl
@[simp] theorem updateCprev_csize (s : State) : (s.updateCprev).csize = s.csize := rfl
@[simp] theorem updateCprev_minPix (s : State) : (s.updateCprev).minPix = s.minPix := rfl
@[simp] theorem updateCprev_maxPix (s : State) : (s.updateCprev).maxPix = s.maxPix := rfl
@[simp] theorem updateCprev_dprev (s : State) : (s.updateCprev).dprev = s.dprev := rfl
@[simp] theorem updateCprev_fout (s : State) : (s.updateCprev).fout = s.fout := rfl
@[simp] theorem updateCprev_lastErr (s : State) : (s.updateCprev).lastErr = s.lastErr := rfl

@[simp] theorem placeFrame_inputs (s : State) (D : List Int) : (s.placeFrame D).inputs = s.inputs := rfl
@[simp] theorem placeFrame_trace (s : State) (D : List Int) : (s.placeFrame D).trace = s.trace := rfl
@[simp] theorem placeFrame_maxN (s : State) (D : List Int) : (s.placeFrame D).maxN = s.maxN := rfl
@[simp] theorem placeFrame_cfg (s : State) (D : List Int) : (s.placeFrame D).cfg = s.cfg := rfl
@[simp] theorem placeFrame_w (s : State) (D : List Int) : (s.placeFrame D).w = s.w := rfl
@[simp] theorem placeFrame_h (s : State) (D : List Int) : (s.placeFrame D).h = s.h := rfl
@[simp] theorem placeFrame_n (s : State) (D : List Int) : (s.placeFrame D).n = s.n := rfl
@[simp] theorem placeFrame_pkW (s : State) (D : List Int) : (s.placeFrame D).pkW = s.pkW := rfl
@[simp] theorem placeFrame_pkAcc (s : State) (D : List Int) : (s.placeFrame D).pkAcc = s.pkAcc := rfl
@[simp] theorem placeFrame_pkCnt (s : State) (D : List Int) : (s.placeFrame D).pkCnt = s.pkCnt := rfl
@[simp] theorem placeFrame_obuf (s : State) (D : List Int) : (s.placeFrame D).obuf = s.obuf := rfl
@[simp] theorem placeFrame_olen (s : State) (D : List Int) : (s.placeFrame D).olen = s.olen := rfl
@[simp] theorem placeFrame_upW (s : State) (D : List Int) : (s.placeFrame D).upW = s.upW := rfl
@[simp] theorem placeFrame_upAcc (s : State) (D : List Int) : (s.placeFrame D).upAcc = s.upAcc := rfl
@[simp] theorem placeFrame_upCnt (s : State) (D : List Int) : (s.placeFrame D).upCnt = s.upCnt := rfl
@[simp] theorem placeFrame_ibuf (s : State) (D : List Int) : (s.placeFrame D).ibuf = s.ibuf := rfl
@[simp] theorem placeFrame_ilen (s : State) (D : List Int) : (s.placeFrame D).ilen = s.ilen := rfl
@[simp] theorem placeFrame_iptr (s : State) (D : List Int) : (s.placeFrame D).iptr = s.iptr := rfl
@[simp] theorem placeFrame_fin (s : State) (D : List Int) : (s.placeFrame D).fin = s.fin := rfl
@[simp] theorem placeFrame_cprev (s : State) (D : List Int) : (s.placeFrame D).cprev = s.cprev := rfl
@[simp] theorem placeFrame_cwidth (s : State) (D : List Int) : (s.placeFrame D).cwidth = s.cwidth := rfl
@[simp] theorem placeFrame_csize (s : State) (D : List Int) : (s.placeFrame D).csize = s.csize := rfl
@[simp] theorem placeFrame_minPix (s : State) (D : List Int) : (s.placeFrame D).minPix = s.minPix := rfl
@[simp] theorem placeFrame_maxPix (s : State) (D : List Int) : (s.placeFrame D).maxPix = s.maxPix := rfl
@[simp] theorem placeFrame_dprev (s : State) (D : List Int) : (s.placeFrame D).dprev = Memory.fill s.dprev (s.outPixel D) (s.h * s.w) := rfl
@[simp] theorem placeFrame_fout (s : State) (D : List Int) : (s.placeFrame D).fout = Memory.fill s.fout (s.outPixel D) (s.h * s.w) := rfl
@[simp] theorem placeFrame_lastErr (s : State) (D : List Int) : (s.placeFrame D).lastErr = s.lastErr := rfl

/-! ### The loops: what they leave alone -/

/-- `emitAll` writes `OBUF` and `OLEN` only. -/
theorem emitAll_frame (s : State) (bs : List Byte) :
    s.emitAll bs = { s with obuf := (s.emitAll bs).obuf, olen := (s.emitAll bs).olen } := by
  induction bs generalizing s with
  | nil => rfl
  | cons b bs ih => rw [State.emitAll, ih]; rfl

/-- The packer's loop writes `OBUF`, `OLEN`, `PK_ACC`, `PK_CNT` only. -/
theorem pkDrain_frame (fuel : Nat) (s : State) :
    State.pkDrain fuel s =
      { s with
        obuf := (State.pkDrain fuel s).obuf, olen := (State.pkDrain fuel s).olen
        pkAcc := (State.pkDrain fuel s).pkAcc, pkCnt := (State.pkDrain fuel s).pkCnt } := by
  induction fuel generalizing s with
  | zero => rfl
  | succ fuel ih =>
    rw [State.pkDrain]
    split
    · rw [ih]; rfl
    · rfl

/-- `pk_push` writes `OBUF`, `OLEN`, `PK_ACC`, `PK_CNT` only (40_bitpack.md R79). -/
theorem pkPush_frame (s : State) (v : Int) :
    s.pkPush v =
      { s with
        obuf := (s.pkPush v).obuf, olen := (s.pkPush v).olen
        pkAcc := (s.pkPush v).pkAcc, pkCnt := (s.pkPush v).pkCnt } := by
  rw [State.pkPush, pkDrain_frame]; rfl

/-- A sequence of pushes writes `OBUF`, `OLEN`, `PK_ACC`, `PK_CNT` only. -/
theorem pkPushAll_frame (s : State) (vs : List Int) :
    s.pkPushAll vs =
      { s with
        obuf := (s.pkPushAll vs).obuf, olen := (s.pkPushAll vs).olen
        pkAcc := (s.pkPushAll vs).pkAcc, pkCnt := (s.pkPushAll vs).pkCnt } := by
  induction vs generalizing s with
  | nil => rfl
  | cons v vs ih => rw [State.pkPushAll, ih, pkPush_frame]

/-- `pk_flush` closes the packer and writes `OBUF` and `OLEN` (40_bitpack.md R80). -/
theorem pkFlush_frame (s : State) :
    s.pkFlush =
      { s with obuf := s.pkFlush.obuf, olen := s.pkFlush.olen, pkAcc := 0, pkCnt := 0, pkW := 0 } := by
  rw [State.pkFlush]; split <;> rfl

/-- The unpacker's loop writes `UP_ACC`, `UP_CNT`, `IPTR` only. -/
theorem upFetch_frame (fuel : Nat) (s : State) :
    (State.upFetch fuel s).2 =
      { s with
        upAcc := (State.upFetch fuel s).2.upAcc, upCnt := (State.upFetch fuel s).2.upCnt
        iptr := (State.upFetch fuel s).2.iptr } := by
  induction fuel generalizing s with
  | zero => rfl
  | succ fuel ih =>
    rw [State.upFetch]
    split
    · rfl
    · split
      · rfl
      · rw [ih]; rfl

/-- `up_pop` writes `UP_ACC`, `UP_CNT`, `IPTR` only, also when it fails (40_bitpack.md R86). -/
theorem upPop_frame (s : State) :
    s.upPop.2 = { s with upAcc := s.upPop.2.upAcc, upCnt := s.upPop.2.upCnt, iptr := s.upPop.2.iptr } := by
  have h := upFetch_frame s.upW s
  rw [State.upPop]
  split
  · next t heq => rw [heq] at h; simp only at h ⊢; rw [h]; rfl
  · next t heq => rw [heq] at h; exact h

/-- Decoding deltas writes `UP_ACC`, `UP_CNT`, `IPTR` only. -/
theorem popDeltas_frame (k : Nat) (d : Int) (s : State) :
    (State.popDeltas k d s).2 =
      { s with
        upAcc := (State.popDeltas k d s).2.upAcc, upCnt := (State.popDeltas k d s).2.upCnt
        iptr := (State.popDeltas k d s).2.iptr } := by
  induction k generalizing d s with
  | zero => rfl
  | succ k ih =>
    have h := upPop_frame s
    rw [State.popDeltas]
    split
    · rename_i t heq; rw [heq] at h; rw [h]
    · rename_i a t heq
      rw [heq] at h
      simp only at h ⊢
      rw [ih, h]


@[simp] theorem emitAll_inputs (s : State) (bs : List Byte) : (s.emitAll bs).inputs = s.inputs := by rw [emitAll_frame]
@[simp] theorem emitAll_trace (s : State) (bs : List Byte) : (s.emitAll bs).trace = s.trace := by rw [emitAll_frame]
@[simp] theorem emitAll_maxN (s : State) (bs : List Byte) : (s.emitAll bs).maxN = s.maxN := by rw [emitAll_frame]
@[simp] theorem emitAll_cfg (s : State) (bs : List Byte) : (s.emitAll bs).cfg = s.cfg := by rw [emitAll_frame]
@[simp] theorem emitAll_w (s : State) (bs : List Byte) : (s.emitAll bs).w = s.w := by rw [emitAll_frame]
@[simp] theorem emitAll_h (s : State) (bs : List Byte) : (s.emitAll bs).h = s.h := by rw [emitAll_frame]
@[simp] theorem emitAll_n (s : State) (bs : List Byte) : (s.emitAll bs).n = s.n := by rw [emitAll_frame]
@[simp] theorem emitAll_pkW (s : State) (bs : List Byte) : (s.emitAll bs).pkW = s.pkW := by rw [emitAll_frame]
@[simp] theorem emitAll_pkAcc (s : State) (bs : List Byte) : (s.emitAll bs).pkAcc = s.pkAcc := by rw [emitAll_frame]
@[simp] theorem emitAll_pkCnt (s : State) (bs : List Byte) : (s.emitAll bs).pkCnt = s.pkCnt := by rw [emitAll_frame]
@[simp] theorem emitAll_upW (s : State) (bs : List Byte) : (s.emitAll bs).upW = s.upW := by rw [emitAll_frame]
@[simp] theorem emitAll_upAcc (s : State) (bs : List Byte) : (s.emitAll bs).upAcc = s.upAcc := by rw [emitAll_frame]
@[simp] theorem emitAll_upCnt (s : State) (bs : List Byte) : (s.emitAll bs).upCnt = s.upCnt := by rw [emitAll_frame]
@[simp] theorem emitAll_ibuf (s : State) (bs : List Byte) : (s.emitAll bs).ibuf = s.ibuf := by rw [emitAll_frame]
@[simp] theorem emitAll_ilen (s : State) (bs : List Byte) : (s.emitAll bs).ilen = s.ilen := by rw [emitAll_frame]
@[simp] theorem emitAll_iptr (s : State) (bs : List Byte) : (s.emitAll bs).iptr = s.iptr := by rw [emitAll_frame]
@[simp] theorem emitAll_fin (s : State) (bs : List Byte) : (s.emitAll bs).fin = s.fin := by rw [emitAll_frame]
@[simp] theorem emitAll_cprev (s : State) (bs : List Byte) : (s.emitAll bs).cprev = s.cprev := by rw [emitAll_frame]
@[simp] theorem emitAll_cwidth (s : State) (bs : List Byte) : (s.emitAll bs).cwidth = s.cwidth := by rw [emitAll_frame]
@[simp] theorem emitAll_csize (s : State) (bs : List Byte) : (s.emitAll bs).csize = s.csize := by rw [emitAll_frame]
@[simp] theorem emitAll_minPix (s : State) (bs : List Byte) : (s.emitAll bs).minPix = s.minPix := by rw [emitAll_frame]
@[simp] theorem emitAll_maxPix (s : State) (bs : List Byte) : (s.emitAll bs).maxPix = s.maxPix := by rw [emitAll_frame]
@[simp] theorem emitAll_dprev (s : State) (bs : List Byte) : (s.emitAll bs).dprev = s.dprev := by rw [emitAll_frame]
@[simp] theorem emitAll_fout (s : State) (bs : List Byte) : (s.emitAll bs).fout = s.fout := by rw [emitAll_frame]
@[simp] theorem emitAll_lastErr (s : State) (bs : List Byte) : (s.emitAll bs).lastErr = s.lastErr := by rw [emitAll_frame]

@[simp] theorem pkPush_inputs (s : State) (v : Int) : (s.pkPush v).inputs = s.inputs := by rw [pkPush_frame]
@[simp] theorem pkPush_trace (s : State) (v : Int) : (s.pkPush v).trace = s.trace := by rw [pkPush_frame]
@[simp] theorem pkPush_maxN (s : State) (v : Int) : (s.pkPush v).maxN = s.maxN := by rw [pkPush_frame]
@[simp] theorem pkPush_cfg (s : State) (v : Int) : (s.pkPush v).cfg = s.cfg := by rw [pkPush_frame]
@[simp] theorem pkPush_w (s : State) (v : Int) : (s.pkPush v).w = s.w := by rw [pkPush_frame]
@[simp] theorem pkPush_h (s : State) (v : Int) : (s.pkPush v).h = s.h := by rw [pkPush_frame]
@[simp] theorem pkPush_n (s : State) (v : Int) : (s.pkPush v).n = s.n := by rw [pkPush_frame]
@[simp] theorem pkPush_pkW (s : State) (v : Int) : (s.pkPush v).pkW = s.pkW := by rw [pkPush_frame]
@[simp] theorem pkPush_upW (s : State) (v : Int) : (s.pkPush v).upW = s.upW := by rw [pkPush_frame]
@[simp] theorem pkPush_upAcc (s : State) (v : Int) : (s.pkPush v).upAcc = s.upAcc := by rw [pkPush_frame]
@[simp] theorem pkPush_upCnt (s : State) (v : Int) : (s.pkPush v).upCnt = s.upCnt := by rw [pkPush_frame]
@[simp] theorem pkPush_ibuf (s : State) (v : Int) : (s.pkPush v).ibuf = s.ibuf := by rw [pkPush_frame]
@[simp] theorem pkPush_ilen (s : State) (v : Int) : (s.pkPush v).ilen = s.ilen := by rw [pkPush_frame]
@[simp] theorem pkPush_iptr (s : State) (v : Int) : (s.pkPush v).iptr = s.iptr := by rw [pkPush_frame]
@[simp] theorem pkPush_fin (s : State) (v : Int) : (s.pkPush v).fin = s.fin := by rw [pkPush_frame]
@[simp] theorem pkPush_cprev (s : State) (v : Int) : (s.pkPush v).cprev = s.cprev := by rw [pkPush_frame]
@[simp] theorem pkPush_cwidth (s : State) (v : Int) : (s.pkPush v).cwidth = s.cwidth := by rw [pkPush_frame]
@[simp] theorem pkPush_csize (s : State) (v : Int) : (s.pkPush v).csize = s.csize := by rw [pkPush_frame]
@[simp] theorem pkPush_minPix (s : State) (v : Int) : (s.pkPush v).minPix = s.minPix := by rw [pkPush_frame]
@[simp] theorem pkPush_maxPix (s : State) (v : Int) : (s.pkPush v).maxPix = s.maxPix := by rw [pkPush_frame]
@[simp] theorem pkPush_dprev (s : State) (v : Int) : (s.pkPush v).dprev = s.dprev := by rw [pkPush_frame]
@[simp] theorem pkPush_fout (s : State) (v : Int) : (s.pkPush v).fout = s.fout := by rw [pkPush_frame]
@[simp] theorem pkPush_lastErr (s : State) (v : Int) : (s.pkPush v).lastErr = s.lastErr := by rw [pkPush_frame]

@[simp] theorem pkPushAll_inputs (s : State) (vs : List Int) : (s.pkPushAll vs).inputs = s.inputs := by rw [pkPushAll_frame]
@[simp] theorem pkPushAll_trace (s : State) (vs : List Int) : (s.pkPushAll vs).trace = s.trace := by rw [pkPushAll_frame]
@[simp] theorem pkPushAll_maxN (s : State) (vs : List Int) : (s.pkPushAll vs).maxN = s.maxN := by rw [pkPushAll_frame]
@[simp] theorem pkPushAll_cfg (s : State) (vs : List Int) : (s.pkPushAll vs).cfg = s.cfg := by rw [pkPushAll_frame]
@[simp] theorem pkPushAll_w (s : State) (vs : List Int) : (s.pkPushAll vs).w = s.w := by rw [pkPushAll_frame]
@[simp] theorem pkPushAll_h (s : State) (vs : List Int) : (s.pkPushAll vs).h = s.h := by rw [pkPushAll_frame]
@[simp] theorem pkPushAll_n (s : State) (vs : List Int) : (s.pkPushAll vs).n = s.n := by rw [pkPushAll_frame]
@[simp] theorem pkPushAll_pkW (s : State) (vs : List Int) : (s.pkPushAll vs).pkW = s.pkW := by rw [pkPushAll_frame]
@[simp] theorem pkPushAll_upW (s : State) (vs : List Int) : (s.pkPushAll vs).upW = s.upW := by rw [pkPushAll_frame]
@[simp] theorem pkPushAll_upAcc (s : State) (vs : List Int) : (s.pkPushAll vs).upAcc = s.upAcc := by rw [pkPushAll_frame]
@[simp] theorem pkPushAll_upCnt (s : State) (vs : List Int) : (s.pkPushAll vs).upCnt = s.upCnt := by rw [pkPushAll_frame]
@[simp] theorem pkPushAll_ibuf (s : State) (vs : List Int) : (s.pkPushAll vs).ibuf = s.ibuf := by rw [pkPushAll_frame]
@[simp] theorem pkPushAll_ilen (s : State) (vs : List Int) : (s.pkPushAll vs).ilen = s.ilen := by rw [pkPushAll_frame]
@[simp] theorem pkPushAll_iptr (s : State) (vs : List Int) : (s.pkPushAll vs).iptr = s.iptr := by rw [pkPushAll_frame]
@[simp] theorem pkPushAll_fin (s : State) (vs : List Int) : (s.pkPushAll vs).fin = s.fin := by rw [pkPushAll_frame]
@[simp] theorem pkPushAll_cprev (s : State) (vs : List Int) : (s.pkPushAll vs).cprev = s.cprev := by rw [pkPushAll_frame]
@[simp] theorem pkPushAll_cwidth (s : State) (vs : List Int) : (s.pkPushAll vs).cwidth = s.cwidth := by rw [pkPushAll_frame]
@[simp] theorem pkPushAll_csize (s : State) (vs : List Int) : (s.pkPushAll vs).csize = s.csize := by rw [pkPushAll_frame]
@[simp] theorem pkPushAll_minPix (s : State) (vs : List Int) : (s.pkPushAll vs).minPix = s.minPix := by rw [pkPushAll_frame]
@[simp] theorem pkPushAll_maxPix (s : State) (vs : List Int) : (s.pkPushAll vs).maxPix = s.maxPix := by rw [pkPushAll_frame]
@[simp] theorem pkPushAll_dprev (s : State) (vs : List Int) : (s.pkPushAll vs).dprev = s.dprev := by rw [pkPushAll_frame]
@[simp] theorem pkPushAll_fout (s : State) (vs : List Int) : (s.pkPushAll vs).fout = s.fout := by rw [pkPushAll_frame]
@[simp] theorem pkPushAll_lastErr (s : State) (vs : List Int) : (s.pkPushAll vs).lastErr = s.lastErr := by rw [pkPushAll_frame]

@[simp] theorem pkFlush_inputs (s : State) : (s.pkFlush).inputs = s.inputs := by rw [pkFlush_frame]
@[simp] theorem pkFlush_trace (s : State) : (s.pkFlush).trace = s.trace := by rw [pkFlush_frame]
@[simp] theorem pkFlush_maxN (s : State) : (s.pkFlush).maxN = s.maxN := by rw [pkFlush_frame]
@[simp] theorem pkFlush_cfg (s : State) : (s.pkFlush).cfg = s.cfg := by rw [pkFlush_frame]
@[simp] theorem pkFlush_w (s : State) : (s.pkFlush).w = s.w := by rw [pkFlush_frame]
@[simp] theorem pkFlush_h (s : State) : (s.pkFlush).h = s.h := by rw [pkFlush_frame]
@[simp] theorem pkFlush_n (s : State) : (s.pkFlush).n = s.n := by rw [pkFlush_frame]
@[simp] theorem pkFlush_pkW (s : State) : (s.pkFlush).pkW = 0 := by rw [pkFlush_frame]
@[simp] theorem pkFlush_pkAcc (s : State) : (s.pkFlush).pkAcc = 0 := by rw [pkFlush_frame]
@[simp] theorem pkFlush_pkCnt (s : State) : (s.pkFlush).pkCnt = 0 := by rw [pkFlush_frame]
@[simp] theorem pkFlush_upW (s : State) : (s.pkFlush).upW = s.upW := by rw [pkFlush_frame]
@[simp] theorem pkFlush_upAcc (s : State) : (s.pkFlush).upAcc = s.upAcc := by rw [pkFlush_frame]
@[simp] theorem pkFlush_upCnt (s : State) : (s.pkFlush).upCnt = s.upCnt := by rw [pkFlush_frame]
@[simp] theorem pkFlush_ibuf (s : State) : (s.pkFlush).ibuf = s.ibuf := by rw [pkFlush_frame]
@[simp] theorem pkFlush_ilen (s : State) : (s.pkFlush).ilen = s.ilen := by rw [pkFlush_frame]
@[simp] theorem pkFlush_iptr (s : State) : (s.pkFlush).iptr = s.iptr := by rw [pkFlush_frame]
@[simp] theorem pkFlush_fin (s : State) : (s.pkFlush).fin = s.fin := by rw [pkFlush_frame]
@[simp] theorem pkFlush_cprev (s : State) : (s.pkFlush).cprev = s.cprev := by rw [pkFlush_frame]
@[simp] theorem pkFlush_cwidth (s : State) : (s.pkFlush).cwidth = s.cwidth := by rw [pkFlush_frame]
@[simp] theorem pkFlush_csize (s : State) : (s.pkFlush).csize = s.csize := by rw [pkFlush_frame]
@[simp] theorem pkFlush_minPix (s : State) : (s.pkFlush).minPix = s.minPix := by rw [pkFlush_frame]
@[simp] theorem pkFlush_maxPix (s : State) : (s.pkFlush).maxPix = s.maxPix := by rw [pkFlush_frame]
@[simp] theorem pkFlush_dprev (s : State) : (s.pkFlush).dprev = s.dprev := by rw [pkFlush_frame]
@[simp] theorem pkFlush_fout (s : State) : (s.pkFlush).fout = s.fout := by rw [pkFlush_frame]
@[simp] theorem pkFlush_lastErr (s : State) : (s.pkFlush).lastErr = s.lastErr := by rw [pkFlush_frame]

@[simp] theorem upFetch_inputs (k : Nat) (s : State) : ((State.upFetch k s).2).inputs = s.inputs := by rw [upFetch_frame]
@[simp] theorem upFetch_trace (k : Nat) (s : State) : ((State.upFetch k s).2).trace = s.trace := by rw [upFetch_frame]
@[simp] theorem upFetch_maxN (k : Nat) (s : State) : ((State.upFetch k s).2).maxN = s.maxN := by rw [upFetch_frame]
@[simp] theorem upFetch_cfg (k : Nat) (s : State) : ((State.upFetch k s).2).cfg = s.cfg := by rw [upFetch_frame]
@[simp] theorem upFetch_w (k : Nat) (s : State) : ((State.upFetch k s).2).w = s.w := by rw [upFetch_frame]
@[simp] theorem upFetch_h (k : Nat) (s : State) : ((State.upFetch k s).2).h = s.h := by rw [upFetch_frame]
@[simp] theorem upFetch_n (k : Nat) (s : State) : ((State.upFetch k s).2).n = s.n := by rw [upFetch_frame]
@[simp] theorem upFetch_pkW (k : Nat) (s : State) : ((State.upFetch k s).2).pkW = s.pkW := by rw [upFetch_frame]
@[simp] theorem upFetch_pkAcc (k : Nat) (s : State) : ((State.upFetch k s).2).pkAcc = s.pkAcc := by rw [upFetch_frame]
@[simp] theorem upFetch_pkCnt (k : Nat) (s : State) : ((State.upFetch k s).2).pkCnt = s.pkCnt := by rw [upFetch_frame]
@[simp] theorem upFetch_obuf (k : Nat) (s : State) : ((State.upFetch k s).2).obuf = s.obuf := by rw [upFetch_frame]
@[simp] theorem upFetch_olen (k : Nat) (s : State) : ((State.upFetch k s).2).olen = s.olen := by rw [upFetch_frame]
@[simp] theorem upFetch_upW (k : Nat) (s : State) : ((State.upFetch k s).2).upW = s.upW := by rw [upFetch_frame]
@[simp] theorem upFetch_ibuf (k : Nat) (s : State) : ((State.upFetch k s).2).ibuf = s.ibuf := by rw [upFetch_frame]
@[simp] theorem upFetch_ilen (k : Nat) (s : State) : ((State.upFetch k s).2).ilen = s.ilen := by rw [upFetch_frame]
@[simp] theorem upFetch_fin (k : Nat) (s : State) : ((State.upFetch k s).2).fin = s.fin := by rw [upFetch_frame]
@[simp] theorem upFetch_cprev (k : Nat) (s : State) : ((State.upFetch k s).2).cprev = s.cprev := by rw [upFetch_frame]
@[simp] theorem upFetch_cwidth (k : Nat) (s : State) : ((State.upFetch k s).2).cwidth = s.cwidth := by rw [upFetch_frame]
@[simp] theorem upFetch_csize (k : Nat) (s : State) : ((State.upFetch k s).2).csize = s.csize := by rw [upFetch_frame]
@[simp] theorem upFetch_minPix (k : Nat) (s : State) : ((State.upFetch k s).2).minPix = s.minPix := by rw [upFetch_frame]
@[simp] theorem upFetch_maxPix (k : Nat) (s : State) : ((State.upFetch k s).2).maxPix = s.maxPix := by rw [upFetch_frame]
@[simp] theorem upFetch_dprev (k : Nat) (s : State) : ((State.upFetch k s).2).dprev = s.dprev := by rw [upFetch_frame]
@[simp] theorem upFetch_fout (k : Nat) (s : State) : ((State.upFetch k s).2).fout = s.fout := by rw [upFetch_frame]
@[simp] theorem upFetch_lastErr (k : Nat) (s : State) : ((State.upFetch k s).2).lastErr = s.lastErr := by rw [upFetch_frame]

@[simp] theorem upPop_inputs (s : State) : (s.upPop.2).inputs = s.inputs := by rw [upPop_frame]
@[simp] theorem upPop_trace (s : State) : (s.upPop.2).trace = s.trace := by rw [upPop_frame]
@[simp] theorem upPop_maxN (s : State) : (s.upPop.2).maxN = s.maxN := by rw [upPop_frame]
@[simp] theorem upPop_cfg (s : State) : (s.upPop.2).cfg = s.cfg := by rw [upPop_frame]
@[simp] theorem upPop_w (s : State) : (s.upPop.2).w = s.w := by rw [upPop_frame]
@[simp] theorem upPop_h (s : State) : (s.upPop.2).h = s.h := by rw [upPop_frame]
@[simp] theorem upPop_n (s : State) : (s.upPop.2).n = s.n := by rw [upPop_frame]
@[simp] theorem upPop_pkW (s : State) : (s.upPop.2).pkW = s.pkW := by rw [upPop_frame]
@[simp] theorem upPop_pkAcc (s : State) : (s.upPop.2).pkAcc = s.pkAcc := by rw [upPop_frame]
@[simp] theorem upPop_pkCnt (s : State) : (s.upPop.2).pkCnt = s.pkCnt := by rw [upPop_frame]
@[simp] theorem upPop_obuf (s : State) : (s.upPop.2).obuf = s.obuf := by rw [upPop_frame]
@[simp] theorem upPop_olen (s : State) : (s.upPop.2).olen = s.olen := by rw [upPop_frame]
@[simp] theorem upPop_upW (s : State) : (s.upPop.2).upW = s.upW := by rw [upPop_frame]
@[simp] theorem upPop_ibuf (s : State) : (s.upPop.2).ibuf = s.ibuf := by rw [upPop_frame]
@[simp] theorem upPop_ilen (s : State) : (s.upPop.2).ilen = s.ilen := by rw [upPop_frame]
@[simp] theorem upPop_fin (s : State) : (s.upPop.2).fin = s.fin := by rw [upPop_frame]
@[simp] theorem upPop_cprev (s : State) : (s.upPop.2).cprev = s.cprev := by rw [upPop_frame]
@[simp] theorem upPop_cwidth (s : State) : (s.upPop.2).cwidth = s.cwidth := by rw [upPop_frame]
@[simp] theorem upPop_csize (s : State) : (s.upPop.2).csize = s.csize := by rw [upPop_frame]
@[simp] theorem upPop_minPix (s : State) : (s.upPop.2).minPix = s.minPix := by rw [upPop_frame]
@[simp] theorem upPop_maxPix (s : State) : (s.upPop.2).maxPix = s.maxPix := by rw [upPop_frame]
@[simp] theorem upPop_dprev (s : State) : (s.upPop.2).dprev = s.dprev := by rw [upPop_frame]
@[simp] theorem upPop_fout (s : State) : (s.upPop.2).fout = s.fout := by rw [upPop_frame]
@[simp] theorem upPop_lastErr (s : State) : (s.upPop.2).lastErr = s.lastErr := by rw [upPop_frame]

@[simp] theorem popDeltas_inputs (k : Nat) (d : Int) (s : State) : ((State.popDeltas k d s).2).inputs = s.inputs := by rw [popDeltas_frame]
@[simp] theorem popDeltas_trace (k : Nat) (d : Int) (s : State) : ((State.popDeltas k d s).2).trace = s.trace := by rw [popDeltas_frame]
@[simp] theorem popDeltas_maxN (k : Nat) (d : Int) (s : State) : ((State.popDeltas k d s).2).maxN = s.maxN := by rw [popDeltas_frame]
@[simp] theorem popDeltas_cfg (k : Nat) (d : Int) (s : State) : ((State.popDeltas k d s).2).cfg = s.cfg := by rw [popDeltas_frame]
@[simp] theorem popDeltas_w (k : Nat) (d : Int) (s : State) : ((State.popDeltas k d s).2).w = s.w := by rw [popDeltas_frame]
@[simp] theorem popDeltas_h (k : Nat) (d : Int) (s : State) : ((State.popDeltas k d s).2).h = s.h := by rw [popDeltas_frame]
@[simp] theorem popDeltas_n (k : Nat) (d : Int) (s : State) : ((State.popDeltas k d s).2).n = s.n := by rw [popDeltas_frame]
@[simp] theorem popDeltas_pkW (k : Nat) (d : Int) (s : State) : ((State.popDeltas k d s).2).pkW = s.pkW := by rw [popDeltas_frame]
@[simp] theorem popDeltas_pkAcc (k : Nat) (d : Int) (s : State) : ((State.popDeltas k d s).2).pkAcc = s.pkAcc := by rw [popDeltas_frame]
@[simp] theorem popDeltas_pkCnt (k : Nat) (d : Int) (s : State) : ((State.popDeltas k d s).2).pkCnt = s.pkCnt := by rw [popDeltas_frame]
@[simp] theorem popDeltas_obuf (k : Nat) (d : Int) (s : State) : ((State.popDeltas k d s).2).obuf = s.obuf := by rw [popDeltas_frame]
@[simp] theorem popDeltas_olen (k : Nat) (d : Int) (s : State) : ((State.popDeltas k d s).2).olen = s.olen := by rw [popDeltas_frame]
@[simp] theorem popDeltas_upW (k : Nat) (d : Int) (s : State) : ((State.popDeltas k d s).2).upW = s.upW := by rw [popDeltas_frame]
@[simp] theorem popDeltas_ibuf (k : Nat) (d : Int) (s : State) : ((State.popDeltas k d s).2).ibuf = s.ibuf := by rw [popDeltas_frame]
@[simp] theorem popDeltas_ilen (k : Nat) (d : Int) (s : State) : ((State.popDeltas k d s).2).ilen = s.ilen := by rw [popDeltas_frame]
@[simp] theorem popDeltas_fin (k : Nat) (d : Int) (s : State) : ((State.popDeltas k d s).2).fin = s.fin := by rw [popDeltas_frame]
@[simp] theorem popDeltas_cprev (k : Nat) (d : Int) (s : State) : ((State.popDeltas k d s).2).cprev = s.cprev := by rw [popDeltas_frame]
@[simp] theorem popDeltas_cwidth (k : Nat) (d : Int) (s : State) : ((State.popDeltas k d s).2).cwidth = s.cwidth := by rw [popDeltas_frame]
@[simp] theorem popDeltas_csize (k : Nat) (d : Int) (s : State) : ((State.popDeltas k d s).2).csize = s.csize := by rw [popDeltas_frame]
@[simp] theorem popDeltas_minPix (k : Nat) (d : Int) (s : State) : ((State.popDeltas k d s).2).minPix = s.minPix := by rw [popDeltas_frame]
@[simp] theorem popDeltas_maxPix (k : Nat) (d : Int) (s : State) : ((State.popDeltas k d s).2).maxPix = s.maxPix := by rw [popDeltas_frame]
@[simp] theorem popDeltas_dprev (k : Nat) (d : Int) (s : State) : ((State.popDeltas k d s).2).dprev = s.dprev := by rw [popDeltas_frame]
@[simp] theorem popDeltas_fout (k : Nat) (d : Int) (s : State) : ((State.popDeltas k d s).2).fout = s.fout := by rw [popDeltas_frame]
@[simp] theorem popDeltas_lastErr (k : Nat) (d : Int) (s : State) : ((State.popDeltas k d s).2).lastErr = s.lastErr := by rw [popDeltas_frame]

end Sys2Proof.Machine
end

