-- ==== Sys2Proof/Laws/Packer.lean ====
section
/-! SUPPORT. What the packer's internal procedures do, in numbers: the bytes emitted and the bits still
pending are the bits pushed, in order (spec/40_bitpack.md R79, R80). -/

namespace Sys2Proof.Machine

/-! ### Slices and byte lists as numbers -/

@[simp] theorem Memory.slice_zero {k : Nat} (m : Memory k) (a : Nat) : m.slice a 0 = [] := rfl

theorem Memory.slice_succ {k : Nat} (m : Memory k) (a n : Nat) :
    m.slice a (n + 1) = m.read a :: m.slice (a + 1) n := rfl

@[simp] theorem Memory.length_slice {k : Nat} (m : Memory k) (a n : Nat) : (m.slice a n).length = n := by
  induction n generalizing a with
  | zero => rfl
  | succ n ih => rw [Memory.slice_succ, List.length_cons, ih]

theorem Memory.slice_congr {k : Nat} {m m' : Memory k} {a n : Nat}
    (h : ∀ i, a ≤ i → i < a + n → m.read i = m'.read i) : m.slice a n = m'.slice a n := by
  induction n generalizing a with
  | zero => rfl
  | succ n ih =>
    rw [Memory.slice_succ, Memory.slice_succ, h a (by omega) (by omega),
      ih fun i h1 h2 => h i (by omega) (by omega)]

theorem Memory.slice_add {k : Nat} (m : Memory k) (a n n' : Nat) :
    m.slice a (n + n') = m.slice a n ++ m.slice (a + n) n' := by
  induction n generalizing a with
  | zero => simp
  | succ n ih =>
    rw [Nat.succ_add, Memory.slice_succ, ih, Memory.slice_succ, List.cons_append,
      show a + 1 + n = a + (n + 1) by omega]

theorem bytesValue_foldl (Y : List Byte) (z : Nat) :
    Y.foldl (fun z b => z * 256 + b.toNat) z = z * 256 ^ Y.length + bytesValue Y := by
  induction Y generalizing z with
  | nil => simp [bytesValue]
  | cons b Y ih =>
    have h : bytesValue (b :: Y) = b.toNat * 256 ^ Y.length + bytesValue Y := by
      rw [bytesValue, List.foldl_cons, ih]; simp
    rw [List.foldl_cons, ih, h, List.length_cons, Nat.pow_succ]
    ring

@[simp] theorem bytesValue_nil : bytesValue [] = 0 := rfl

theorem bytesValue_cons (b : Byte) (Y : List Byte) :
    bytesValue (b :: Y) = b.toNat * 256 ^ Y.length + bytesValue Y := by
  rw [bytesValue, List.foldl_cons, bytesValue_foldl]; simp

theorem bytesValue_append (X Y : List Byte) :
    bytesValue (X ++ Y) = bytesValue X * 256 ^ Y.length + bytesValue Y := by
  induction X with
  | nil => simp
  | cons b X ih =>
    rw [List.cons_append, bytesValue_cons, bytesValue_cons, ih, List.length_append, Nat.pow_add]
    ring

/-! ### The accumulator -/

/-- A field put below bits that end in zeros is added to them. -/
theorem acc_or_eq_add {P f c w : Nat} (hc : c + w ≤ 40) (hP : P < 2 ^ c) (hf : f < 2 ^ w) :
    (BitVec.ofNat 40 (P * 2 ^ (40 - c)) ||| (BitVec.ofNat 40 f <<< (40 - c - w))).toNat =
      (P * 2 ^ w + f) * 2 ^ (40 - (c + w)) := by
  have e1 : 2 ^ (40 - c) = 2 ^ w * 2 ^ (40 - (c + w)) := by rw [← Nat.pow_add]; congr 1; omega
  have hb : f * 2 ^ (40 - (c + w)) < 2 ^ (40 - c) := by
    rw [e1]; exact Nat.mul_lt_mul_of_pos_right hf (by positivity)
  have hP40 : P * 2 ^ (40 - c) < 2 ^ 40 := by
    have : 2 ^ 40 = 2 ^ c * 2 ^ (40 - c) := by rw [← Nat.pow_add]; congr 1; omega
    rw [this]; exact Nat.mul_lt_mul_of_pos_right hP (by positivity)
  have h40 : 2 ^ (40 - c) ≤ 2 ^ 40 := Nat.pow_le_pow_right (by omega) (by omega)
  have hf40 : f < 2 ^ 40 := Nat.lt_of_lt_of_le hf (Nat.pow_le_pow_right (by omega) (by omega))
  rw [BitVec.toNat_or, BitVec.toNat_shiftLeft, BitVec.toNat_ofNat, BitVec.toNat_ofNat,
    Nat.mod_eq_of_lt hP40, Nat.mod_eq_of_lt hf40, Nat.shiftLeft_eq,
    show 40 - c - w = 40 - (c + w) by omega, Nat.mod_eq_of_lt (by omega), ← Nat.shiftLeft_eq P,
    ← Nat.shiftLeft_add_eq_or_of_lt hb, Nat.shiftLeft_eq, e1]
  ring

/-- The field of a value fits its width (30_encoding.md R53). -/
theorem enc_lt (w : Nat) (v : Int) : enc w v < 2 ^ w := by
  have h : (0 : Int) < ((2 ^ w : Nat) : Int) := by positivity
  have h1 := Int.emod_lt_of_pos v h
  have h2 := Int.emod_nonneg v (ne_of_gt h)
  unfold enc
  omega

/-- An accumulator whose low bits are 0 is its valid bits shifted up. -/
theorem acc_eq_pending {acc : Acc} {c : Nat} (h : acc.toNat % 2 ^ (40 - c) = 0) :
    acc = BitVec.ofNat 40 (acc.toNat / 2 ^ (40 - c) * 2 ^ (40 - c)) := by
  have := Nat.div_add_mod acc.toNat (2 ^ (40 - c))
  rw [h, Nat.add_zero, Nat.mul_comm] at this
  rw [this, BitVec.ofNat_toNat, BitVec.setWidth_eq]

/-- The valid bits are as many as the count says. -/
theorem pending_lt (acc : Acc) {c : Nat} (hc : c ≤ 40) : acc.toNat / 2 ^ (40 - c) < 2 ^ c := by
  rw [Nat.div_lt_iff_lt_mul (by positivity), ← Nat.pow_add, show c + (40 - c) = 40 by omega]
  exact acc.isLt

/-! ### The count -/

/-- No turn of the loop raises the count. -/
theorem pkDrain_pkCnt_le (fuel : Nat) (s : State) : (State.pkDrain fuel s).pkCnt ≤ s.pkCnt := by
  induction fuel generalizing s with
  | zero => exact le_rfl
  | succ n ih =>
    rw [State.pkDrain]
    split
    · exact (ih _).trans (Nat.sub_le _ _)
    · exact le_rfl

/-- The loop ends with the count modulo 8, whatever the buffer and the accumulator hold. -/
theorem pkDrain_pkCnt (fuel : Nat) (s : State) (hf : s.pkCnt / 8 ≤ fuel) :
    (State.pkDrain fuel s).pkCnt = s.pkCnt % 8 := by
  induction fuel generalizing s with
  | zero => simp only [State.pkDrain]; omega
  | succ n ih =>
    rw [State.pkDrain]
    split
    · rw [ih _ (by rw [pkShiftByte_pkCnt]; omega), pkShiftByte_pkCnt]; omega
    · omega

/-- A push leaves `(PK_CNT + PK_W) mod 8` bits pending (R79). -/
theorem pkPush_pkCnt (s : State) (v : Int) : (s.pkPush v).pkCnt = (s.pkCnt + s.pkW) % 8 := by
  rw [State.pkPush, pkDrain_pkCnt _ _ (by rw [pkPlace_pkCnt]; omega), pkPlace_pkCnt]

/-! ### The loop -/

/-- All the loop does: with the `PK_CNT` valid bits read as the number `V`, the bytes it emits followed by the
bits it leaves are `V`. -/
theorem pkDrain_spec (fuel : Nat) (s : State) (V : Nat) (hw : s.obuf.wf = true) (hc : s.pkCnt ≤ 40)
    (hV : s.pkAcc.toNat = V * 2 ^ (40 - s.pkCnt)) (hf : s.pkCnt / 8 ≤ fuel) :
    (State.pkDrain fuel s).olen = s.olen + s.pkCnt / 8 ∧
    (State.pkDrain fuel s).pkCnt = s.pkCnt % 8 ∧
    (State.pkDrain fuel s).obuf.wf = true ∧
    (∀ i, i < s.olen ∨ s.olen + s.pkCnt / 8 ≤ i → (State.pkDrain fuel s).obuf.read i = s.obuf.read i) ∧
    ∃ V', (State.pkDrain fuel s).pkAcc.toNat = V' * 2 ^ (40 - s.pkCnt % 8) ∧ V' < 2 ^ (s.pkCnt % 8) ∧
      bytesValue ((State.pkDrain fuel s).obuf.slice s.olen (s.pkCnt / 8)) * 2 ^ (s.pkCnt % 8) + V' = V := by
  have hVlt : V < 2 ^ s.pkCnt := by
    have := s.pkAcc.isLt
    rw [hV, show 2 ^ 40 = 2 ^ s.pkCnt * 2 ^ (40 - s.pkCnt) by rw [← Nat.pow_add]; congr 1; omega] at this
    exact Nat.lt_of_mul_lt_mul_right this
  induction fuel generalizing s V with
  | zero =>
    have h0 : s.pkCnt / 8 = 0 := by omega
    have h1 : s.pkCnt % 8 = s.pkCnt := by omega
    simp only [State.pkDrain, h0, h1, Nat.add_zero, Memory.slice_zero, bytesValue_nil]
    refine ⟨trivial, trivial, hw, fun _ _ => trivial, V, hV, hVlt, by omega⟩
  | succ fuel ih =>
    rw [State.pkDrain]
    split
    · next h8 =>
      obtain ⟨c, hcc⟩ : ∃ c, s.pkCnt = c + 8 := ⟨s.pkCnt - 8, by omega⟩
      have hdiv : s.pkCnt / 8 = (s.pkCnt - 8) / 8 + 1 := by omega
      have hmod : (s.pkCnt - 8) % 8 = s.pkCnt % 8 := by omega
      have hsub : s.pkCnt - 8 = c := by omega
      have e40 : 2 ^ (40 - c) = 256 * 2 ^ (40 - s.pkCnt) := by
        rw [show (256 : Nat) = 2 ^ 8 from rfl, ← Nat.pow_add]; congr 1; omega
      have e32 : 2 ^ 32 = 2 ^ c * 2 ^ (40 - s.pkCnt) := by rw [← Nat.pow_add]; congr 1; omega
      have h40 : (2 : Nat) ^ 40 = 2 ^ c * 2 ^ (40 - c) := by rw [← Nat.pow_add]; congr 1; omega
      have htop : s.pkTop.toNat = V / 2 ^ c := by
        rw [State.pkTop, BitVec.extractLsb'_toNat, Nat.shiftRight_eq_div_pow, hV, e32,
          Nat.mul_div_mul_right _ _ (by positivity), Nat.mod_eq_of_lt]
        rw [Nat.div_lt_iff_lt_mul (by positivity), ← Nat.pow_add]
        rw [hcc, Nat.add_comm] at hVlt; exact hVlt
      have hacc : s.pkShiftByte.pkAcc.toNat = V % 2 ^ c * 2 ^ (40 - s.pkShiftByte.pkCnt) := by
        simp only [pkShiftByte_pkAcc, pkShiftByte_pkCnt]
        rw [BitVec.toNat_shiftLeft, hV, Nat.shiftLeft_eq, hsub, h40,
          show V * 2 ^ (40 - s.pkCnt) * 2 ^ 8 = V * 2 ^ (40 - c) by rw [e40]; ring,
          Nat.mul_mod_mul_right]
      obtain ⟨i1, i2, i3, i4, V', j1, j2, j3⟩ :=
        ih s.pkShiftByte (V % 2 ^ c) (by simpa using Memory.wf_write _ _ hw)
          (by rw [pkShiftByte_pkCnt]; omega) hacc
          (by rw [pkShiftByte_pkCnt]; omega)
          (by rw [pkShiftByte_pkCnt, hsub]; exact Nat.mod_lt _ (by positivity))
      simp only [pkShiftByte_pkCnt, pkShiftByte_olen, hmod, pkShiftByte_obuf] at i1 i2 i3 i4 j1 j2 j3
      refine ⟨by omega, i2, i3, fun i hi => ?_, V', j1, j2, ?_⟩
      · rw [i4 i (by omega), Memory.read_write_other _ (by omega)]
      · rw [hdiv, Memory.slice_succ, bytesValue_cons, i4 _ (by omega), Memory.read_write_same _ _ hw,
          Memory.length_slice, htop, Nat.add_mul, Nat.add_assoc, j3]
        have hc8 : c = 8 * (c / 8) + s.pkCnt % 8 := by omega
        have : 256 ^ ((s.pkCnt - 8) / 8) * 2 ^ (s.pkCnt % 8) = 2 ^ c := by
          rw [show (256 : Nat) = 2 ^ 8 from rfl, ← Nat.pow_mul, ← Nat.pow_add, hsub]
          congr 1; omega
        rw [Nat.mul_assoc, this, Nat.mul_comm]
        exact Nat.div_add_mod V (2 ^ c)
    · next h8 =>
      have h0 : s.pkCnt / 8 = 0 := by omega
      have h1 : s.pkCnt % 8 = s.pkCnt := by omega
      simp only [h0, h1, Nat.add_zero, Memory.slice_zero, bytesValue_nil]
      refine ⟨trivial, trivial, hw, fun _ _ => trivial, V, hV, hVlt, by omega⟩

/-- All `pk_push` does (R79): it emits `(PK_CNT + w) div 8` bytes and leaves `(PK_CNT + w) mod 8` bits, and
these bytes followed by these bits are the pending bits followed by the field. -/
theorem pkPush_spec (s : State) (v : Int) (hw : s.obuf.wf = true) (hc : s.pkCnt + s.pkW ≤ 40)
    (hz : s.pkAcc.toNat % 2 ^ (40 - s.pkCnt) = 0) :
    (s.pkPush v).olen = s.olen + s.pushBytes ∧
    (s.pkPush v).pkCnt = (s.pkCnt + s.pkW) % 8 ∧
    (s.pkPush v).obuf.wf = true ∧
    (∀ i, i < s.olen ∨ s.olen + s.pushBytes ≤ i → (s.pkPush v).obuf.read i = s.obuf.read i) ∧
    (s.pkPush v).pkAcc.toNat % 2 ^ (40 - (s.pkPush v).pkCnt) = 0 ∧
    bytesValue ((s.pkPush v).obuf.slice s.olen s.pushBytes) * 2 ^ (s.pkPush v).pkCnt +
      (s.pkPush v).pkPending = s.pkPending * 2 ^ s.pkW + enc s.pkW v := by
  have hplace : (s.pkPlace v).pkAcc.toNat =
      (s.pkPending * 2 ^ s.pkW + enc s.pkW v) * 2 ^ (40 - (s.pkPlace v).pkCnt) := by
    simp only [pkPlace_pkAcc, pkPlace_pkCnt]
    rw [acc_eq_pending hz]
    exact acc_or_eq_add hc (pending_lt _ (by omega)) (enc_lt _ _)
  obtain ⟨i1, i2, i3, i4, V', j1, j2, j3⟩ :=
    pkDrain_spec (s.pkCnt + s.pkW) (s.pkPlace v) _ hw (by simpa using hc) hplace
      (by simp only [pkPlace_pkCnt]; omega)
  simp only [pkPlace_pkCnt, pkPlace_olen, pkPlace_obuf] at i1 i2 i3 i4 j1 j2 j3
  refine ⟨i1, i2, i3, i4, ?_, ?_⟩
  · rw [State.pkPush, i2, j1]; exact Nat.mul_mod_left _ _
  · have : (s.pkPush v).pkPending = V' := by
      rw [State.pkPending, State.pkPush, i2, j1, Nat.mul_div_cancel _ (by positivity)]
    rw [this, State.pkPush, i2]
    exact j3

/-- All `pk_flush` does (R80): the pending bits, padded with zeros below, become one more byte, and the packer
is closed. -/
theorem pkFlush_spec (s : State) (hw : s.obuf.wf = true) (hc : s.pkCnt ≤ 7)
    (hz : s.pkAcc.toNat % 2 ^ (40 - s.pkCnt) = 0) :
    s.pkFlush.olen = s.olen + s.flushBytes ∧
    s.pkFlush.obuf.wf = true ∧
    (∀ i, i ≠ s.olen ∨ s.pkCnt = 0 → s.pkFlush.obuf.read i = s.obuf.read i) ∧
    (0 < s.pkCnt → (s.pkFlush.obuf.read s.olen).toNat = s.pkPending * 2 ^ (8 - s.pkCnt)) := by
  have htop : s.pkTop.toNat = s.pkPending * 2 ^ (8 - s.pkCnt) := by
    have hp := pending_lt s.pkAcc (c := s.pkCnt) (by omega)
    have hacc : s.pkAcc.toNat = s.pkPending * 2 ^ (8 - s.pkCnt) * 2 ^ 32 := by
      have := Nat.div_add_mod s.pkAcc.toNat (2 ^ (40 - s.pkCnt))
      rw [hz, Nat.add_zero, Nat.mul_comm] at this
      rw [Nat.mul_assoc, ← Nat.pow_add, show 8 - s.pkCnt + 32 = 40 - s.pkCnt by omega]
      exact this.symm
    rw [State.pkTop, BitVec.extractLsb'_toNat, Nat.shiftRight_eq_div_pow, hacc,
      Nat.mul_div_cancel _ (by positivity), Nat.mod_eq_of_lt]
    calc s.pkPending * 2 ^ (8 - s.pkCnt) < 2 ^ s.pkCnt * 2 ^ (8 - s.pkCnt) :=
          Nat.mul_lt_mul_of_pos_right hp (by positivity)
      _ = 2 ^ 8 := by rw [← Nat.pow_add]; congr 1; omega
  unfold State.pkFlush State.flushBytes
  split
  · next h =>
    simp only [emit_obuf, emit_olen]
    refine ⟨trivial, Memory.wf_write _ _ hw, fun i hi => ?_, fun _ => ?_⟩
    · exact Memory.read_write_other _ (by omega)
    · rw [Memory.read_write_same _ _ hw, htop]
  · next h =>
    exact ⟨rfl, hw, fun _ _ => rfl, fun h' => absurd h' h⟩

end Sys2Proof.Machine
end

