-- ==== Sys2Proof/Laws/PerInstr.lean ====
section
/-! SUPPORT. Statements about every instruction as syntax, one lemma per constructor. -/

namespace Sys2Proof.Laws

/-- Family LegalWord: an instruction's word has an assigned opcode and every must-be-zero field of its format
is 0, whatever the operands (30_encoding.md R63, R64, R67). -/
def LegalWord.Statement (i : Instr) : Prop :=
  ∃ f, formatOf (cmdOp (encode i)).toNat = some f ∧ f.mustBeZeroOk (encode i) = true

/-- A word built from an opcode and fields that its format allows is legal. -/
theorem legal_of_fields {op : BitVec 8} {a : BitVec 16} {b : BitVec 8} {c : BitVec 32} {f : Format}
    (hf : formatOf op.toNat = some f)
    (hz : (match f with
      | .Z => a = 0 ∧ b = 0 ∧ c = 0
      | .W => a = 0 ∧ c = 0
      | .WS => a = 0
      | .V => a = 0 ∧ b = 0
      | .BA => a = 0
      | .G => a = 0 ∧ b = 0
      | .SP => a = 0
      | .PX => b = 0)) :
    ∃ f, formatOf (cmdOp (cmdWord op a b c)).toNat = some f ∧ f.mustBeZeroOk (cmdWord op a b c) = true := by
  refine ⟨f, by rw [cmdOp_cmdWord]; exact hf, ?_⟩
  cases f <;> simp_all [Format.mustBeZeroOk, cmdA_cmdWord, cmdB_cmdWord, cmdC_cmdWord]

theorem LegalWord.reset : LegalWord.Statement .reset :=
  legal_of_fields (f := .Z) rfl (by simp)
theorem LegalWord.config (w h : BitVec 16) : LegalWord.Statement (.config w h) :=
  legal_of_fields (f := .G) rfl (by simp)
theorem LegalWord.cinit : LegalWord.Statement .cinit :=
  legal_of_fields (f := .Z) rfl (by simp)
theorem LegalWord.dinit : LegalWord.Statement .dinit :=
  legal_of_fields (f := .Z) rfl (by simp)
theorem LegalWord.rdreg (n : Value) : LegalWord.Statement (.rdreg n) :=
  legal_of_fields (f := .V) rfl (by simp)
theorem LegalWord.wrpix (y x : BitVec 16) (v : Pixel) : LegalWord.Statement (.wrpix y x v) :=
  legal_of_fields (f := .PX) rfl (by simp)
theorem LegalWord.rdpix (sel : BitVec 8) (y x : BitVec 16) : LegalWord.Statement (.rdpix sel y x) :=
  legal_of_fields (f := .SP) rfl (by simp)
theorem LegalWord.wrib (i : Value) (b : Byte) : LegalWord.Statement (.wrib i b) :=
  legal_of_fields (f := .BA) rfl (by simp)
theorem LegalWord.rdob (i : Value) : LegalWord.Statement (.rdob i) :=
  legal_of_fields (f := .V) rfl (by simp)
theorem LegalWord.pkinit (w : BitVec 8) : LegalWord.Statement (.pkinit w) :=
  legal_of_fields (f := .W) rfl (by simp)
theorem LegalWord.pkpush (v : Value) : LegalWord.Statement (.pkpush v) :=
  legal_of_fields (f := .V) rfl (by simp)
theorem LegalWord.pkflush : LegalWord.Statement .pkflush :=
  legal_of_fields (f := .Z) rfl (by simp)
theorem LegalWord.upinit (w : BitVec 8) (size : Value) : LegalWord.Statement (.upinit w size) :=
  legal_of_fields (f := .WS) rfl (by simp)
theorem LegalWord.uppop : LegalWord.Statement .uppop :=
  legal_of_fields (f := .Z) rfl (by simp)
theorem LegalWord.compress : LegalWord.Statement .compress :=
  legal_of_fields (f := .Z) rfl (by simp)
theorem LegalWord.decompress (w : BitVec 8) (size : Value) : LegalWord.Statement (.decompress w size) :=
  legal_of_fields (f := .WS) rfl (by simp)

end Sys2Proof.Laws
end

