-- ==== Sys2Proof/Laws/Unpacker.lean ====
section
/-! SUPPORT. What the unpacker's internal procedures do, in numbers: the value taken and the bits left are the
bits that were valid followed by the bytes read (spec/40_bitpack.md R86). -/

namespace Sys2Proof.Machine

/-- The bytes `up_pop` has to read before `w` bits are valid. -/
def State.upNeed (s : State) : Nat := (s.upW - s.upCnt + 7) / 8

/-- The bytes left in the stream. -/
def State.upLeft (s : State) : Nat := s.ilen - s.iptr

/-- One more byte below the valid bits. -/
theorem upTakeByte_acc (s : State) (P : Nat) (hc : s.upCnt + 8 ≤ 40) (hP : P < 2 ^ s.upCnt)
    (h : s.upAcc.toNat = P * 2 ^ (40 - s.upCnt)) :
    s.upTakeByte.upAcc.toNat =
      (P * 256 + (s.ibuf.read s.iptr).toNat) * 2 ^ (40 - s.upTakeByte.upCnt) := by
  have hacc : s.upAcc = BitVec.ofNat 40 (P * 2 ^ (40 - s.upCnt)) := by
    rw [← h, BitVec.ofNat_toNat, BitVec.setWidth_eq]
  simp only [upTakeByte_upAcc, upTakeByte_upCnt]
  rw [hacc]
  exact acc_or_eq_add hc hP (s.ibuf.read s.iptr).isLt

/-- The loop adds whole bytes to the count, and reads one only while the count is below `UP_W` (R86). -/
theorem upFetch_upCnt (fuel : Nat) (s : State) :
    ∃ j, j ≤ fuel ∧ (State.upFetch fuel s).2.upCnt = s.upCnt + 8 * j ∧
      ∀ i, i < j → s.upCnt + 8 * i < s.upW := by
  induction fuel generalizing s with
  | zero => exact ⟨0, le_rfl, rfl, by simp⟩
  | succ n ih =>
    rw [State.upFetch]
    split
    · exact ⟨0, by omega, rfl, by simp⟩
    · split
      · exact ⟨0, by omega, rfl, by simp⟩
      · obtain ⟨j, hj, he, hlt⟩ := ih s.upTakeByte
        simp only [upTakeByte_upCnt, upTakeByte_upW] at he hlt
        refine ⟨j + 1, by omega, by omega, fun i hi => ?_⟩
        rcases i with _ | i
        · omega
        · have := hlt i (by omega)
          omega

/-- All the loop does: it reads the bytes it needs, or all that are left, each below the bits before it, and it
says which. -/
theorem upFetch_spec (fuel : Nat) (s : State) (P : Nat) (hw : s.upW ≤ 32) (hP : P < 2 ^ s.upCnt)
    (h : s.upAcc.toNat = P * 2 ^ (40 - s.upCnt)) (hp : s.iptr ≤ s.ilen) (hf : s.upNeed ≤ fuel) :
    (State.upFetch fuel s).1 = decide (s.upNeed ≤ s.upLeft) ∧
    (State.upFetch fuel s).2.iptr = s.iptr + min s.upNeed s.upLeft ∧
    (State.upFetch fuel s).2.upCnt = s.upCnt + 8 * min s.upNeed s.upLeft ∧
    (State.upFetch fuel s).2.upAcc.toNat =
      (P * 256 ^ min s.upNeed s.upLeft + bytesValue (s.ibuf.slice s.iptr (min s.upNeed s.upLeft))) *
        2 ^ (40 - (State.upFetch fuel s).2.upCnt) := by
  induction fuel generalizing s P with
  | zero =>
    have h0 : s.upNeed = 0 := by omega
    simp only [State.upFetch, h0, Nat.zero_le, decide_true, Nat.zero_min, Nat.add_zero, Nat.mul_zero,
      Memory.slice_zero, bytesValue_nil, Nat.pow_zero, Nat.mul_one, h, and_self]
  | succ fuel ih =>
    rw [State.upFetch]
    split
    · next hle =>
      have h0 : s.upNeed = 0 := by unfold State.upNeed; omega
      simp only [h0, Nat.zero_le, decide_true, Nat.zero_min, Nat.add_zero, Nat.mul_zero,
        Memory.slice_zero, bytesValue_nil, Nat.pow_zero, Nat.mul_one, h, and_self]
    · next hle =>
      split
      · next heq =>
        have h0 : s.upLeft = 0 := by unfold State.upLeft; omega
        have h1 : ¬ s.upNeed ≤ 0 := by unfold State.upNeed; omega
        simp only [h0, h1, decide_false, Nat.min_zero, Nat.add_zero, Nat.mul_zero,
          Memory.slice_zero, bytesValue_nil, Nat.pow_zero, Nat.mul_one, h, and_self]
      · next hne =>
        have hneed : s.upNeed = s.upTakeByte.upNeed + 1 := by
          simp only [State.upNeed, upTakeByte_upW, upTakeByte_upCnt]; omega
        have hleft : s.upLeft = s.upTakeByte.upLeft + 1 := by
          simp only [State.upLeft, upTakeByte_ilen, upTakeByte_iptr]; omega
        have hmin : min s.upNeed s.upLeft = min s.upTakeByte.upNeed s.upTakeByte.upLeft + 1 := by omega
        have hb := (s.ibuf.read s.iptr).isLt
        obtain ⟨i1, i2, i3, i4⟩ := ih s.upTakeByte (P * 256 + (s.ibuf.read s.iptr).toNat) hw
          (by rw [upTakeByte_upCnt, Nat.pow_add]; omega)
          (upTakeByte_acc s P (by omega) hP h)
          (by rw [upTakeByte_iptr, upTakeByte_ilen]; omega) (by omega)
        simp only [upTakeByte_iptr, upTakeByte_upCnt, upTakeByte_ibuf] at i2 i3 i4
        refine ⟨?_, by omega, by omega, ?_⟩
        · rw [i1]; exact decide_eq_decide.2 (by omega)
        · rw [i4, hmin, Memory.slice_succ, bytesValue_cons, Memory.length_slice, Nat.pow_succ]
          ring

/-- All `up_pop` does (R86). With enough bytes left it reads what it needs, takes the top `w` of the bits and
leaves the rest; otherwise it fails with every byte that was left read and kept. -/
theorem upPop_spec (s : State) (hw : s.upW ≤ 32) (hc : s.upCnt ≤ 40)
    (hz : s.upAcc.toNat % 2 ^ (40 - s.upCnt) = 0) (hp : s.iptr ≤ s.ilen) :
    (s.upNeed ≤ s.upLeft →
      s.upPop.2.iptr = s.iptr + s.upNeed ∧
      s.upPop.2.upCnt = s.upCnt + 8 * s.upNeed - s.upW ∧
      s.upPop.2.upAcc.toNat % 2 ^ (40 - s.upPop.2.upCnt) = 0 ∧
      ∃ x, s.upPop.1 = some (dec s.upW x) ∧ x < 2 ^ s.upW ∧
        x * 2 ^ s.upPop.2.upCnt + s.upPop.2.upPending =
          s.upPending * 256 ^ s.upNeed + bytesValue (s.ibuf.slice s.iptr s.upNeed)) ∧
    (s.upLeft < s.upNeed →
      s.upPop.1 = none ∧
      s.upPop.2.iptr = s.ilen ∧
      s.upPop.2.upCnt = s.upCnt + 8 * s.upLeft ∧
      s.upPop.2.upAcc.toNat % 2 ^ (40 - s.upPop.2.upCnt) = 0 ∧
      s.upPop.2.upPending = s.upPending * 256 ^ s.upLeft + bytesValue (s.ibuf.slice s.iptr s.upLeft)) := by
  have hacc : s.upAcc.toNat = s.upPending * 2 ^ (40 - s.upCnt) := by
    have := Nat.div_add_mod s.upAcc.toNat (2 ^ (40 - s.upCnt))
    rw [hz, Nat.add_zero, Nat.mul_comm] at this
    exact this.symm
  obtain ⟨i1, i2, i3, i4⟩ := upFetch_spec s.upW s s.upPending hw (pending_lt _ hc) hacc hp
    (by unfold State.upNeed; omega)
  constructor
  · intro hle
    rw [decide_eq_true hle] at i1
    rw [Nat.min_eq_left hle] at i2 i3 i4
    have hpop : s.upPop = (some (State.upFetch s.upW s).2.upTake.1, (State.upFetch s.upW s).2.upTake.2) := by
      rw [State.upPop]
      split
      · next t heq => rw [heq]
      · next t heq => rw [heq] at i1; exact absurd i1 (by simp)
    have hW : (State.upFetch s.upW s).2.upW = s.upW := upFetch_upW _ _
    generalize State.upFetch s.upW s = r at i1 i2 i3 i4 hpop hW
    obtain ⟨b, t⟩ := r
    simp only at i1 i2 i3 i4 hpop hW
    have hcnt40 : t.upCnt ≤ 40 := by rw [i3]; unfold State.upNeed; omega
    have hwle : s.upW ≤ t.upCnt := by rw [i3]; unfold State.upNeed; omega
    generalize hV : s.upPending * 256 ^ s.upNeed + bytesValue (s.ibuf.slice s.iptr s.upNeed) = V at i4
    generalize hd : t.upCnt - s.upW = d at *
    have hVlt : V < 2 ^ t.upCnt := by
      have := t.upAcc.isLt
      rw [i4, show 2 ^ 40 = 2 ^ t.upCnt * 2 ^ (40 - t.upCnt) by
        rw [← Nat.pow_add]; congr 1; omega] at this
      exact Nat.lt_of_mul_lt_mul_right this
    have hpow : 2 ^ t.upCnt = 2 ^ s.upW * 2 ^ d := by rw [← Nat.pow_add]; congr 1; omega
    have hrest : (t.upAcc <<< s.upW).toNat = V % 2 ^ d * 2 ^ (40 - d) := by
      rw [BitVec.toNat_shiftLeft, i4, Nat.shiftLeft_eq,
        show V * 2 ^ (40 - t.upCnt) * 2 ^ s.upW = V * 2 ^ (40 - d) by
          rw [Nat.mul_assoc, ← Nat.pow_add]; congr 2; omega,
        show (2 : Nat) ^ 40 = 2 ^ d * 2 ^ (40 - d) by rw [← Nat.pow_add]; congr 1; omega,
        Nat.mul_mod_mul_right]
    have htop : t.upAcc.toNat / 2 ^ (40 - s.upW) = V / 2 ^ d := by
      rw [i4, show 2 ^ (40 - s.upW) = 2 ^ d * 2 ^ (40 - t.upCnt) by rw [← Nat.pow_add]; congr 1; omega,
        Nat.mul_div_mul_right _ _ (by positivity)]
    simp only [hpop, upTake_iptr, upTake_upCnt, upTake_upAcc, hW, hd]
    refine ⟨i2, by omega, by rw [hrest]; exact Nat.mul_mod_left _ _, V / 2 ^ d, ?_, ?_, ?_⟩
    · rw [State.upTake, hW, htop]
    · rw [Nat.div_lt_iff_lt_mul (by positivity), ← hpow]; exact hVlt
    · rw [State.upPending]
      simp only [upTake_upCnt, upTake_upAcc, hW, hd]
      rw [hrest, Nat.mul_div_cancel _ (by positivity), Nat.mul_comm]
      exact Nat.div_add_mod V (2 ^ d)
  · intro hlt
    rw [decide_eq_false (by omega)] at i1
    rw [Nat.min_eq_right (by omega)] at i2 i3 i4
    have hpop : s.upPop = (none, (State.upFetch s.upW s).2) := by
      rw [State.upPop]
      split
      · next t heq => rw [heq] at i1; exact absurd i1 (by simp)
      · next t heq => rw [heq]
    rw [hpop]
    refine ⟨rfl, by rw [i2]; unfold State.upLeft; omega, i3, by rw [i4]; exact Nat.mul_mod_left _ _, ?_⟩
    rw [State.upPending, i4, Nat.mul_div_cancel _ (by positivity)]

end Sys2Proof.Machine
end

