-- ==== Sys2Proof/Tests/Slice0.lean ====
section
/-! SUPPORT. Tests: words written out from the spec's encodings, one step of each command on the spec's own
vectors (spec/95_test_vectors.md), and for every obligation with hypotheses a state and operands that meet them. -/

open Sys2Proof Sys2Proof.Machine Sys2Proof.Claims

namespace Sys2Proof.Tests

/-! ### States -/

/-- The state after a command, if it goes on. -/
def after (i : Instr) (s : State) : Option State :=
  match exec i s with
  | .next t => some t
  | _ => none

/-- The response a command answers. -/
def answer (i : Instr) (s : State) : Option Word := (after i s).bind fun t => t.trace.getLast?

/-- The state after a step, if it goes on. -/
def afterStep (s : State) : Option State :=
  match step s with
  | .next t => some t
  | _ => none

/-- The reset state of an engine of 12 pixels. -/
def r12 : State := State.resetWith 12

/-- Configured as 4 columns by 3 rows. -/
def c43 : State := { r12 with cfg := true, w := 4, h := 3, n := 12 }

/-- Frame 0 of 95_test_vectors.md section 2.6. -/
def frame0 : Memory 16 :=
  [(0, 1024), (1, 1024), (2, 1024), (3, 1024), (4, 1024), (5, 1025), (6, 1026), (7, 1027)] ++
  [(8, 1024), (9, 1026), (10, 1028), (11, 1030)]

/-- The payload of FV1, `00 04 00 00 00 3F F8 49 00`. -/
def payload0 : Memory 8 := [(1, 0x04), (5, 0x3F), (6, 0xF8), (7, 0x49)]

def fin43 : State := { c43 with fin := frame0 }
def ibuf43 : State := { c43 with ibuf := payload0 }

/-- The packer after `PKINIT 5`, `PKPUSH 0` (section 2.3). -/
def pack5 : State := { r12 with pkW := 5, pkCnt := 5 }

/-- The unpacker after `UPINIT 5, 5` and one pop over `04 1F F0 9F 00` (UV1). -/
def pop5 : State :=
  { r12 with
    ibuf := [(0, 0x04), (1, 0x1F), (2, 0xF0), (3, 0x9F)], ilen := 5, iptr := 1
    upW := 5, upAcc := 0x8000000000, upCnt := 3 }

/-- The unpacker of UV3 after its first pop: `7F FF FF FF 80 00 00` at width 32. -/
def pop32 : State :=
  { r12 with
    ibuf := [(0, 0x7F), (1, 0xFF), (2, 0xFF), (3, 0xFF), (4, 0x80)], ilen := 7, iptr := 4, upW := 32 }

/-! ### Decoding: words written out from 30_encoding.md R62 to R64, one of every command -/

theorem test_decode_reset : decode 0x0100000000000000 = .ok .reset := by decide
theorem test_decode_config : decode 0x0200000000030004 = .ok (.config 4 3) := by decide
theorem test_decode_cinit : decode 0x0300000000000000 = .ok .cinit := by decide
theorem test_decode_dinit : decode 0x0400000000000000 = .ok .dinit := by decide
theorem test_decode_rdreg : decode 0x080000000000000D = .ok (.rdreg 13) := by decide
theorem test_decode_wrpix : decode 0x1004020000010002 = .ok (.wrpix 1 2 1026) := by decide
theorem test_decode_rdpix : decode 0x1100000300010002 = .ok (.rdpix 3 1 2) := by decide
theorem test_decode_wrib : decode 0x1200003F00000004 = .ok (.wrib 4 0x3F) := by decide
theorem test_decode_rdob : decode 0x1300000000000005 = .ok (.rdob 5) := by decide
theorem test_decode_pkinit : decode 0x2000002100000000 = .ok (.pkinit 33) := by decide
theorem test_decode_pkpush : decode 0x21000000FFFFFFF0 = .ok (.pkpush (-16)) := by decide
theorem test_decode_pkflush : decode 0x2200000000000000 = .ok .pkflush := by decide
theorem test_decode_upinit : decode 0x2800000500000007 = .ok (.upinit 5 7) := by decide
theorem test_decode_uppop : decode 0x2900000000000000 = .ok .uppop := by decide
theorem test_decode_compress : decode 0x3000000000000000 = .ok .compress := by decide
theorem test_decode_decompress : decode 0x31000028FFFFFFFF = .ok (.decompress 40 0xFFFFFFFF) := by decide

/-- The opcodes of R67's reserved list are rejected by name. -/
theorem test_decode_unassigned :
    ([0x00, 0x05, 0x07, 0x09, 0x0F, 0x14, 0x1F, 0x23, 0x27, 0x2A, 0x2F, 0x32, 0xFF].all fun op =>
      decide (decode (opMatch op) = .error (.unassignedOpcode op))) = true := by decide

/-- The illegal words of program P4: a non-zero must-be-zero field. -/
theorem test_decode_must_be_zero :
    ([0x0100000000000001, 0x2101000000000005, 0x2000000500000001, 0x0800000100000000,
      0x1000010100000000, 0x0200000100030004].all fun c =>
      decide (decode (BitVec.ofNat 64 c) = .error (.mustBeZero (c / 2 ^ 56)))) = true := by decide

theorem test_encode_wrpix : encode (.wrpix 1 2 1026) = 0x1004020000010002 := by decide
theorem test_table_word : decodeTableWord 64 0x1200003F00000004 = some (.wrib 4 0x3F) := by decide

/-! ### WellFormed: each check refuses an ill-formed term -/

theorem test_illformed_config : Instr.wellFormed (.config 0 3) = false ∧ Instr.wellFormed (.config 3 0) = false := by
  decide
theorem test_illformed_rdreg : Instr.wellFormed (.rdreg 13) = false := by decide
theorem test_illformed_rdpix : Instr.wellFormed (.rdpix 4 0 0) = false := by decide
theorem test_illformed_pkinit : Instr.wellFormed (.pkinit 0) = false ∧ Instr.wellFormed (.pkinit 33) = false := by
  decide
theorem test_illformed_upinit : Instr.wellFormed (.upinit 33 0) = false := by decide
theorem test_illformed_decompress : Instr.wellFormed (.decompress 0 9) = false := by decide

/-! ### One step of each command -/

/-- SV15. -/
theorem test_reset : after .reset { fin43 with lastErr := 5 } = some { r12 with trace := [0] } := by decide
/-- SV4. -/
theorem test_config : (after (.config 4 3) pack5).map (fun t => (t.n, t.pkW, t.dimReg)) = some (12, 0, 0x00030004) := by
  decide
/-- P7: `N = 4` is above `MAXN = 2`. -/
theorem test_config_too_large : answer (.config 2 2) (State.resetWith 2) = some 0x0500000000000000 := by decide
/-- SV13. -/
theorem test_cinit : (after .cinit { c43 with cprev := frame0, cwidth := 3, csize := 9 }).map
    (fun t => (t.cprev, t.cwidth, t.csize, t.minPix)) = some ([], 0, 0, 0xFFFF) := by decide
/-- SV14. -/
theorem test_dinit : (after .dinit { c43 with dprev := frame0, fout := frame0 }).map (fun t => (t.dprev, t.fout)) =
    some ([], frame0) := by decide
/-- SV1, SV2: `ID` and `EXTREMES` in the reset state. -/
theorem test_rdreg : answer (.rdreg 0) r12 = some 0x0000000043505456 ∧ answer (.rdreg 6) r12 = some 0xFFFF := by
  decide
/-- P2, P6: `STATUS` and `PKSTAT`. -/
theorem test_rdreg_status : answer (.rdreg 1) { pop5 with lastErr := 1 } = some 0x0000000000000104 ∧
    answer (.rdreg 7) { pack5 with pkCnt := 2 } = some 0x0000000000000205 := by decide
/-- SV5, SV6. -/
theorem test_wrpix : (after (.wrpix 2 3 65535) c43).map State.fin = some [(11, 65535)] := by decide
/-- SV7, SV8. -/
theorem test_wrpix_range : answer (.wrpix 3 0 7) c43 = some 0x0500000000000000 ∧
    answer (.wrpix 0 4 7) c43 = some 0x0500000000000000 := by decide
/-- The example of R123. -/
theorem test_rdpix : answer (.rdpix 0 2 3) { c43 with fout := frame0 } = some 0x0000000000000406 := by decide
/-- P4: the selector and the order of checks. -/
theorem test_rdpix_errors : answer (.rdpix 4 0 0) c43 = some 0x0500000000000000 ∧
    answer (.rdpix 9 65535 65535) r12 = some 0x0300000000000000 := by decide
/-- SV10 and P7's `WRIB 8` at `MAXN = 2`. -/
theorem test_wrib : (after (.wrib 4 0x3F) r12).map State.ibuf = some [(4, 0x3F)] ∧
    answer (.wrib 8 0xAA) (State.resetWith 2) = some 0x0500000000000000 := by decide
/-- The example of R125. -/
theorem test_rdob : answer (.rdob 5) { c43 with obuf := payload0, olen := 9 } = some 0x3F ∧
    answer (.rdob 9) { c43 with obuf := payload0, olen := 9 } = some 0x0500000000000000 := by decide
/-- R82: `PKINIT` on an open packer starts again. -/
theorem test_pkinit : (after (.pkinit 8) { pack5 with olen := 3 }).map (fun t => (t.pkW, t.pkCnt, t.olen)) =
    some (8, 0, 0) := by decide
/-- The second row of section 2.3. -/
theorem test_pkpush : (after (.pkpush (-16)) pack5).map (fun t => (t.pkAcc, t.pkCnt, t.obuf, t.trace)) =
    some (0, 2, [(0, 0x04)], [0x0000000100000001]) := by decide
/-- PV6, the third push: a 32-bit accumulator would drop its last bits. -/
theorem test_pkpush_31 :
    (after (.pkpush (-1)) { r12 with pkW := 31, pkCnt := 6 }).map (fun t => (t.pkAcc, t.pkCnt, t.obuf.slice 0 4)) =
      some (0xF800000000, 5, [0x03, 0xFF, 0xFF, 0xFF]) := by decide
/-- The last row of section 2.3. -/
theorem test_pkflush : (after .pkflush { pack5 with pkCnt := 3, pkAcc := 0x8000000000, olen := 4 }).map
    (fun t => (t.pkW, t.obuf, t.trace)) = some (0, [(4, 0x80)], [0x0000000100000005]) := by decide
/-- P7: the pad byte has no room. -/
theorem test_pkflush_full : answer .pkflush { State.resetWith 2 with pkW := 7, pkCnt := 6, olen := 8 } =
    some 0x0600000000000000 := by decide
/-- R88: the example. -/
theorem test_upinit : (after (.upinit 5 5) pop32).map (fun t => (t.upW, t.upCnt, t.ilen, t.iptr)) =
    some (5, 0, 5, 0) := by decide
/-- UV1, pop 2. -/
theorem test_uppop : (after .uppop pop5).map (fun t => (t.upAcc, t.upCnt, t.iptr, t.trace)) =
    some (0x7C00000000, 6, 2, [0x00000000FFFFFFF0]) := by decide
/-- UV3, pop 2: three bytes read, then the end. -/
theorem test_uppop_end : (after .uppop pop32).map (fun t => (t.upAcc, t.upCnt, t.iptr, t.trace)) =
    some (0x8000000000, 24, 7, [0x0100000000000000]) := by decide
/-- FV1. -/
theorem test_compress : (after .compress fin43).map (fun t => (t.obuf, t.olen, t.minPix, t.maxPix, t.trace)) =
    some (payload0, 9, 1025, 1026, [0x0000000300000009]) := by decide
/-- FV7a: one pixel. -/
theorem test_compress_one_pixel :
    (after .compress { r12 with cfg := true, w := 1, h := 1, n := 1, fin := [(0, 100)] }).map
      (fun t => (t.obuf, t.trace, t.minPix)) = some ([(0, 0x64)], [0x0000000100000004], 0xFFFF) := by decide
/-- FV1, the other side. -/
theorem test_decompress : (after (.decompress 3 9) ibuf43).map (fun t => (t.fout, t.dprev, t.trace)) =
    some (frame0, frame0, [0x0000000000000009]) := by decide
/-- DV12: the running sum wraps modulo `2^32`; and DV5: a truncated payload. -/
theorem test_decompress_wrap :
    (after (.decompress 2 5) { r12 with cfg := true, w := 2, h := 1, n := 2, ibuf :=
      [(0, 0xFF), (1, 0xFF), (2, 0xFF), (3, 0x7F), (4, 0x40)] }).map State.fout = some [(0, 65535)] ∧
    after (.decompress 3 8) ibuf43 = some { ibuf43 with
      ilen := 8, iptr := 8, lastErr := 1, trace := [0x0100000000000000] } := by decide

/-- `step` runs a presented word from `State.reset`, and an illegal one answers `IllegalCommand` (P4). -/
theorem test_step : (afterStep (State.reset.withFetchWord 64 0x1200003F00000004)).map State.ibuf = some [(4, 0x3F)] ∧
    (afterStep (State.reset.withFetchWord 64 0)).map State.trace = some [0x0700000000000000] := by decide

/-- R69's comment and R70's expansions. -/
theorem test_assembler : assembleLine " PKPUSH -9 ; does not fit" = .ok (some (.pkpush (-9))) ∧
    assembleLine "; nothing" = .ok none ∧ assembleLine "WRIB 4, 256" = .error .doesNotFit := by decide
theorem test_expand : (Pseudo.ldframe [[7, 8], [9, 10]]).expand =
    [.wrpix 0 0 7, .wrpix 0 1 8, .wrpix 1 0 9, .wrpix 1 1 10] := by decide

/-! ### The hypotheses of the obligations can be met -/

theorem wit_inv_r12 : r12.Inv where
  param := by unfold State.ParamInv; decide
  geometry := by unfold State.GeometryInv; decide
  packer := ⟨by decide, ⟨0, by decide⟩, by decide, by decide⟩
  unpacker := ⟨by decide, by decide, by decide, by decide, by decide, by decide, 0, by decide⟩
  buffers := by unfold State.BufferInv; decide
  results := by unfold State.ResultInv; decide

theorem wit_inv_fin43 : fin43.Inv where
  param := by unfold State.ParamInv; decide
  geometry := by unfold State.GeometryInv; decide
  packer := ⟨by decide, ⟨0, by decide⟩, by decide, by decide⟩
  unpacker := ⟨by decide, by decide, by decide, by decide, by decide, by decide, 0, by decide⟩
  buffers := by unfold State.BufferInv; decide
  results := by unfold State.ResultInv; decide

theorem wit_inv_ibuf43 : ibuf43.Inv where
  param := by unfold State.ParamInv; decide
  geometry := by unfold State.GeometryInv; decide
  packer := ⟨by decide, ⟨0, by decide⟩, by decide, by decide⟩
  unpacker := ⟨by decide, by decide, by decide, by decide, by decide, by decide, 0, by decide⟩
  buffers := by unfold State.BufferInv; decide
  results := by unfold State.ResultInv; decide

theorem wit_EncodeOfDecodedIsTheWord : decode (0x1004020000010002 : Word) = .ok (.wrpix 1 2 1026) := by decide

/-- Both ends of the widths, a field of each, and values at both ends of what fits. -/
theorem wit_EncDecLaws : (1 ≤ 1 ∧ 1 ≤ 32 ∧ 1 < 2 ^ 1) ∧ (1 ≤ 32 ∧ 32 ≤ 32 ∧ 2 ^ 32 - 1 < 2 ^ 32) ∧
    (-5 : Int) % (2 ^ 3 : Nat) = 3 % (2 ^ 3 : Nat) := by decide

theorem wit_SleOfLeIsTheValue : (-(2 ^ 31 : Nat) ≤ (-2147483648 : Int) ∧ (-2147483648 : Int) < (2 ^ 31 : Nat)) ∧
    (-(2 ^ 31 : Nat) ≤ (2147483647 : Int) ∧ (2147483647 : Int) < (2 ^ 31 : Nat)) ∧ 3 < 4 := by decide

/-- Scenario (f), and width 1. -/
theorem wit_UnpackOfPackIsTheSequence :
    (1 ≤ 5 ∧ 5 ≤ 32 ∧ ∀ v ∈ ([0, -16, 15, -1, 1, 7, -8] : List Int), -(2 ^ (5 - 1) : Nat) ≤ v ∧ v < (2 ^ (5 - 1) : Nat)) ∧
    (1 ≤ 1 ∧ 1 ≤ 32 ∧ ∀ v ∈ ([0, -1] : List Int), -(2 ^ (1 - 1) : Nat) ≤ v ∧ v < (2 ^ (1 - 1) : Nat)) := by decide

theorem wit_SnakeIsABijectionOfNeighbours : (1 ≤ 4 ∧ 2 < 3 ∧ 3 < 4 ∧ 11 < 4 * 3 ∧ 10 + 1 < 4 * 3) ∧
    (1 ≤ 1 ∧ 0 < 1 ∧ 0 < 1 * 1) := by decide

theorem wit_StepRunsTheDecodedCommand :
    ({ r12 with inputs := [.command 0x0100000000000000] } : State).inputs = .command 0x0100000000000000 :: [] ∧
    decode 0x0100000000000000 = .ok .reset := by decide

theorem wit_IllegalWordChangesOnlyLasterr :
    ({ r12 with inputs := [.command 0] } : State).inputs = .command 0 :: [] ∧
    decode 0 = .error (.unassignedOpcode 0) := by decide

theorem wit_ResetInputClearsAndIdleKeeps :
    ({ fin43 with inputs := [.resetInput] } : State).inputs = .resetInput :: [] ∧ r12.inputs = [] := by decide

theorem wit_ResetMeetsTheInvariant : (1 ≤ 1 ∧ 1 ≤ Config.maxNLimit) ∧
    (1 ≤ Config.maxNLimit ∧ Config.maxNLimit ≤ Config.maxNLimit) := by decide

theorem wit_StepKeepsTheInvariant : fin43.Inv ∧ step fin43 = .next fin43 := ⟨wit_inv_fin43, rfl⟩

theorem wit_CommandsWriteOnlyTheirState :
    exec (.rdreg 0) r12 = .next (r12.respond .ok 0 idReg) ∧ clearsAll (.rdreg 0) = false ∧
    usesPacker (.rdreg 0) = false ∧ usesUnpacker (.rdreg 0) = false ∧ (∀ j b, Instr.rdreg 0 ≠ .wrib j b) ∧
    (∀ y x v, Instr.rdreg 0 ≠ .wrpix y x v) ∧ Instr.rdreg 0 ≠ .compress ∧ Instr.rdreg 0 ≠ .cinit ∧
    (∀ k z, Instr.rdreg 0 ≠ .decompress k z) ∧ Instr.rdreg 0 ≠ .dinit :=
  ⟨rfl, rfl, rfl, rfl, by simp, by simp, by simp, by simp, by simp, by simp⟩

theorem wit_ErrorsWriteOnlyLasterr :
    exec .uppop r12 = .next (r12.respond .notOpen 0 0) ∧
    (r12.respond .notOpen 0 0).lastErr ≠ 0 ∧ (r12.respond .notOpen 0 0).lastErr ≠ 1 ∧
    (after .uppop pop32).map State.lastErr = some 1 := ⟨rfl, by decide, by decide, by decide⟩

theorem wit_LasterrGatesNothing : Instr.rdreg 0 ≠ .rdreg 1 := by decide

theorem wit_IllFormedCommandsOnlyFail : Instr.wellFormed (.pkinit 33) = false ∧
    exec (.pkinit 33) r12 = .next (r12.respond .badWidth 0 0) := ⟨by decide, rfl⟩

theorem wit_GeometryCommandsNeedConfig : (needsGeometry .compress = true ∧ r12.cfg = false) ∧
    needsGeometry .uppop = false ∧ exec .uppop r12 = .next (r12.respond .notOpen 0 0) := ⟨by decide, rfl, rfl⟩

theorem wit_StreamCommandsNeedAnOpenUnit : r12.pkW = 0 ∧ r12.upW = 0 := by decide

theorem wit_WidthsOutsideOneToThirtyTwoAreRefused :
    ((0 : BitVec 8).toNat = 0 ∨ 32 < (0 : BitVec 8).toNat) ∧
    ((33 : BitVec 8).toNat = 0 ∨ 32 < (33 : BitVec 8).toNat) ∧ c43.cfg = true := by decide

/-- Each row of R138 at the first value that is out of range. -/
theorem wit_OperandsOutOfRangeAreRefused :
    ((0 : BitVec 16).toNat = 0) ∧ (c43.maxN < (13 : BitVec 16).toNat * (1 : BitVec 16).toNat) ∧
    12 < (13 : Value).toNat ∧ (c43.cfg = true ∧ c43.h ≤ (3 : BitVec 16).toNat) ∧
    (c43.cfg = true ∧ c43.w ≤ (4 : BitVec 16).toNat) ∧ (c43.cfg = true ∧ 3 < (4 : BitVec 8).toNat) ∧
    4 * c43.maxN ≤ (48 : Value).toNat ∧ c43.olen ≤ (0 : Value).toNat ∧
    (1 ≤ (32 : BitVec 8).toNat ∧ (32 : BitVec 8).toNat ≤ 32 ∧ 4 * c43.maxN < (49 : Value).toNat) := by decide

/-- P7's two full buffers. -/
theorem wit_FullOutputBufferRefusesBytes :
    (let s : State := { State.resetWith 2 with pkW := 32, olen := 8 }
     s.pkW ≠ 0 ∧ 4 * s.maxN < s.olen + (s.pkCnt + s.pkW) / 8) ∧
    (let s : State := { State.resetWith 2 with pkW := 7, pkCnt := 6, olen := 8 }
     s.pkW ≠ 0 ∧ 0 < s.pkCnt ∧ 4 * s.maxN < s.olen + 1) := by decide

theorem wit_ConfigIsResetThenGeometry : 1 ≤ (4 : BitVec 16).toNat ∧ 1 ≤ (3 : BitVec 16).toNat ∧
    (4 : BitVec 16).toNat * (3 : BitVec 16).toNat ≤ r12.maxN := by decide

/-- The last register, and `CSIZE`. -/
theorem wit_RdregReturnsTheRegister : fin43.Inv ∧
    ((12 : Value).toNat ≤ 12 ∧ ((12 : Value).toNat = 5 → fin43.csize < 2 ^ 32)) ∧
    ((5 : Value).toNat ≤ 12 ∧ ((5 : Value).toNat = 5 → fin43.csize < 2 ^ 32)) := ⟨wit_inv_fin43, by decide⟩

theorem wit_WrpixWritesOnePixel : fin43.fin.wf = true ∧ fin43.cfg = true ∧ (2 : BitVec 16).toNat < fin43.h ∧
    (3 : BitVec 16).toNat < fin43.w := by decide

theorem wit_RdpixReturnsThePixel : fin43.cfg = true ∧ (2 : BitVec 16).toNat < fin43.h ∧
    (3 : BitVec 16).toNat < fin43.w := by decide

theorem wit_WribWritesOneByte : ibuf43.ibuf.wf = true ∧ (47 : Value).toNat < 4 * ibuf43.maxN := by decide

theorem wit_RdobReturnsTheByte : (8 : Value).toNat < ({ c43 with obuf := payload0, olen := 9 } : State).olen := by
  decide

theorem wit_CinitStartsANewCompressor : fin43.cprev.wf = true ∧ fin43.cfg = true ∧ 2 < fin43.h ∧ 3 < fin43.w := by
  decide

theorem wit_DinitStartsANewDecompressor : fin43.dprev.wf = true ∧ fin43.cfg = true ∧ 2 < fin43.h ∧ 3 < fin43.w := by
  decide

theorem wit_NewfileClearsBothPreviousFrames : fin43.Inv ∧ fin43.cfg = true := ⟨wit_inv_fin43, rfl⟩

/-- Both ends of the widths, for PKINIT. -/
theorem wit_PkinitOpensThePacker : (1 ≤ (1 : BitVec 8).toNat ∧ (1 : BitVec 8).toNat ≤ 32) ∧
    (1 ≤ (32 : BitVec 8).toNat ∧ (32 : BitVec 8).toNat ≤ 32) := by decide

theorem wit_PkpushAppendsTheField : pack5.PackerInv ∧ pack5.obuf.wf = true ∧ pack5.pkW ≠ 0 ∧
    pack5.olen + (pack5.pkCnt + pack5.pkW) / 8 ≤ 4 * pack5.maxN :=
  ⟨⟨by decide, ⟨1, by decide⟩, by decide, by decide⟩, by decide⟩

/-- With bits pending, and with none. -/
theorem wit_PkflushEmitsThePaddedTail :
    (pack5.PackerInv ∧ pack5.obuf.wf = true ∧ pack5.pkW ≠ 0 ∧
      (0 < pack5.pkCnt → pack5.olen + 1 ≤ 4 * pack5.maxN) ∧ 0 < pack5.pkCnt) ∧
    (let s : State := { pack5 with pkCnt := 0 }
     s.PackerInv ∧ s.obuf.wf = true ∧ s.pkW ≠ 0 ∧ (0 < s.pkCnt → s.olen + 1 ≤ 4 * s.maxN) ∧ s.pkCnt = 0) :=
  ⟨⟨⟨by decide, ⟨1, by decide⟩, by decide, by decide⟩, by decide⟩,
   ⟨⟨by decide, ⟨0, by decide⟩, by decide, by decide⟩, by decide⟩⟩

/-- Scenario (f), and a stream that fills `OBUF` at width 32. -/
theorem wit_PackCommandsComputePack :
    (1 ≤ (5 : BitVec 8).toNat ∧ (5 : BitVec 8).toNat ≤ 32 ∧ r12.obuf.wf = true ∧
      (([0, -16, 15, -1, 1, 7, -8] : List Value).length * (5 : BitVec 8).toNat + 7) / 8 ≤ 4 * r12.maxN) ∧
    (1 ≤ (32 : BitVec 8).toNat ∧ (32 : BitVec 8).toNat ≤ 32 ∧
      ((List.replicate 12 (7 : Value)).length * (32 : BitVec 8).toNat + 7) / 8 ≤ 4 * r12.maxN) := by decide

theorem wit_UpinitOpensTheUnpacker : 1 ≤ (32 : BitVec 8).toNat ∧ (32 : BitVec 8).toNat ≤ 32 ∧
    (48 : Value).toNat ≤ 4 * r12.maxN := by decide

/-- A pop that reads a byte. -/
theorem wit_UppopReturnsTheNextField : pop5.UnpackerInv ∧ pop5.upW ≠ 0 ∧
    pop5.upW ≤ pop5.upCnt + 8 * (pop5.ilen - pop5.iptr) :=
  ⟨⟨by decide, by decide, by decide, by decide, by decide, by decide, 1, by decide⟩, by decide, by decide⟩

/-- UV3: three bytes are left and four are needed. -/
theorem wit_UppopAtTheEndKeepsWhatItRead : pop32.UnpackerInv ∧ pop32.upW ≠ 0 ∧
    pop32.upCnt + 8 * (pop32.ilen - pop32.iptr) < pop32.upW :=
  ⟨⟨by decide, by decide, by decide, by decide, by decide, by decide, 1, by decide⟩, by decide, by decide⟩

/-- Pops that all succeed, and pops that run into the end. -/
theorem wit_UnpackCommandsComputeUnpack :
    (1 ≤ (5 : BitVec 8).toNat ∧ (5 : BitVec 8).toNat ≤ 32 ∧ (5 : Value).toNat ≤ 4 * pop5.maxN ∧
      (8 = min 8 (8 * (5 : Value).toNat / (5 : BitVec 8).toNat) ∧ 8 = 8)) ∧
    (8 = min 10 (8 * (5 : Value).toNat / (5 : BitVec 8).toNat) ∧ 8 < 10) := by decide

theorem wit_AccumulatorBounds : pack5.PackerInv ∧ pop5.UnpackerInv ∧
    (let s : State := { r12 with pkW := 32 }; s.PackerInv ∧ s.pkW = 32) ∧ 1 ≤ 31 ∧ 31 ≤ 32 :=
  ⟨⟨by decide, ⟨1, by decide⟩, by decide, by decide⟩,
   ⟨by decide, by decide, by decide, by decide, by decide, by decide, 1, by decide⟩,
   ⟨⟨by decide, ⟨0, by decide⟩, by decide, by decide⟩, rfl⟩, by decide⟩

theorem wit_DeltasAreInSnakeOrder : fin43.GeometryInv ∧ fin43.cfg = true ∧ 2 < fin43.h ∧ 3 < fin43.w ∧
    10 + 1 < fin43.n := by unfold State.GeometryInv; decide

/-- FV1 chooses width 3, an empty frame width 1. -/
theorem wit_ChosenWidthHoldsEveryDelta : fin43.frameWidth = 3 ∧ (3 ∈ adjacent fin43.deltas) ∧ c43.frameWidth = 1 := by
  decide

theorem wit_CompressEmitsThePayload : fin43.Inv ∧ fin43.cfg = true ∧
    (after .compress fin43).map (fun t => decide (t.csize < 2 ^ 32)) = some true := ⟨wit_inv_fin43, by decide⟩

theorem wit_StateAfterCompress : fin43.Inv ∧ fin43.cfg = true ∧ 2 < fin43.h ∧ 3 < fin43.w ∧ 3 ≤ fin43.h ∧ 3 ≤ fin43.w :=
  ⟨wit_inv_fin43, by decide⟩

/-- A frame with an interior, and one without. -/
theorem wit_ExtremesAreOfTheInterior :
    (fin43.Inv ∧ fin43.cfg = true ∧ 1 + 2 ≤ fin43.h ∧ 1 ≤ 2 ∧ 2 + 2 ≤ fin43.w ∧ 3 ≤ fin43.h ∧ 3 ≤ fin43.w) ∧
    (let s : State := { r12 with cfg := true, w := 5, h := 1, n := 5 }; s.Inv ∧ s.cfg = true ∧ s.h < 3) :=
  ⟨⟨wit_inv_fin43, by decide⟩,
   { param := by unfold State.ParamInv; decide
     geometry := by unfold State.GeometryInv; decide
     packer := ⟨by decide, ⟨0, by decide⟩, by decide, by decide⟩
     unpacker := ⟨by decide, by decide, by decide, by decide, by decide, by decide, 0, by decide⟩
     buffers := by unfold State.BufferInv; decide
     results := by unfold State.ResultInv; decide }, by decide⟩

theorem wit_UnchangedFrameCompressesToZeros :
    ibuf43.Inv ∧ ibuf43.cfg = true ∧
    (∀ y x, y < ibuf43.h → x < ibuf43.w → pixel ibuf43.fin ibuf43.w y x = pixel ibuf43.cprev ibuf43.w y x) ∧
    0 < 4 + (ibuf43.n - 1 + 7) / 8 := ⟨wit_inv_ibuf43, rfl, fun _ _ _ _ => rfl, by decide⟩

/-- The payload of FV1 at exactly the bytes it needs. -/
theorem wit_DecompressAddsTheDecodedDeltas : ibuf43.Inv ∧ ibuf43.cfg = true ∧ 1 ≤ (3 : BitVec 8).toNat ∧
    (3 : BitVec 8).toNat ≤ 32 ∧ (9 : Value).toNat ≤ 4 * ibuf43.maxN ∧
    4 + ((ibuf43.n - 1) * (3 : BitVec 8).toNat + 7) / 8 ≤ (9 : Value).toNat ∧ 2 < ibuf43.h ∧ 3 < ibuf43.w :=
  ⟨wit_inv_ibuf43, by decide⟩

/-- One byte short, and not even the first delta. -/
theorem wit_ShortPayloadEndsInEndOfStream : ibuf43.Inv ∧ ibuf43.cfg = true ∧ 1 ≤ (3 : BitVec 8).toNat ∧
    (3 : BitVec 8).toNat ≤ 32 ∧ (8 : Value).toNat ≤ 4 * ibuf43.maxN ∧ (3 : Value).toNat ≤ 4 * ibuf43.maxN ∧
    (8 : Value).toNat < 4 + ((ibuf43.n - 1) * (3 : BitVec 8).toNat + 7) / 8 ∧
    (3 : Value).toNat < 4 + ((ibuf43.n - 1) * (3 : BitVec 8).toNat + 7) / 8 := ⟨wit_inv_ibuf43, by decide⟩

/-- FV1 on one engine, its payload on another. -/
theorem wit_DecompressOfCompressIsTheFrame : fin43.Inv ∧ fin43.cfg = true ∧ ibuf43.Inv ∧ ibuf43.cfg = true ∧
    ibuf43.w = fin43.w ∧ ibuf43.h = fin43.h ∧
    (∀ y x, y < fin43.h → x < fin43.w → pixel ibuf43.dprev fin43.w y x = pixel fin43.cprev fin43.w y x) ∧
    (after .compress fin43).map (fun t =>
      decide (t.csize < 2 ^ 32 ∧ ibuf43.ibuf.slice 0 t.csize = t.obuf.slice 0 t.csize)) = some true :=
  ⟨wit_inv_fin43, rfl, wit_inv_ibuf43, rfl, rfl, rfl, fun _ _ _ _ => rfl, by decide⟩

/-- Two engines that differ in the other half's state. -/
theorem wit_CompressorAndDecompressorAreIndependent :
    (let s' : State := { fin43 with dprev := frame0, upW := 3, lastErr := 5, obuf := payload0, olen := 9, pkW := 5 }
     fin43.cfg = s'.cfg ∧ fin43.w = s'.w ∧ fin43.h = s'.h ∧ fin43.n = s'.n ∧ fin43.trace = s'.trace ∧
     fin43.fin = s'.fin ∧ fin43.cprev = s'.cprev ∧ fin43.cfg = true ∧ fin43.obuf.wf = true ∧ s'.obuf.wf = true ∧
     (after .compress fin43).isSome ∧ (after .compress s').isSome) ∧
    (let s' : State := { ibuf43 with fin := frame0, pkW := 3 }
     ibuf43.cfg = s'.cfg ∧ ibuf43.w = s'.w ∧ ibuf43.h = s'.h ∧ ibuf43.n = s'.n ∧ ibuf43.trace = s'.trace ∧
     ibuf43.maxN = s'.maxN ∧ ibuf43.ibuf = s'.ibuf ∧ ibuf43.dprev = s'.dprev ∧ ibuf43.fout = s'.fout ∧
     (after (.decompress 3 9) ibuf43).isSome ∧ (after (.decompress 3 9) s').isSome) := by decide

end Sys2Proof.Tests
end

/-! What a command does to the state, said once for all sixteen: the effect it ends with, before its response is
added. The statements about every command are read off from it. -/

namespace Sys2Proof.Machine

/-- The deltas `DECOMPRESS` decodes from the payload after its first one, or none at the end of the stream, and
the state it has then (spec/41_codec.md R108, steps 1 and 2). -/
def State.decoded (s : State) (w size : Nat) : Option (List Int) × State :=
  State.popDeltas (s.n - 1) s.firstDelta ({ s with ilen := size, iptr := 4 }.upInit w)

/-- `Effect s i e u`: from `s`, command `i` may end with code `e`, and `u` is what it has made of the state
then, all but the response. A constructor carries the checks that its way through the command has passed. -/
inductive Effect (s : State) : Instr → Err → State → Prop
  | refused {i : Instr} {e : Err} (hok : e ≠ .ok) (hend : e ≠ .endOfStream) : Effect s i e s
  | reset : Effect s .reset .ok s.clear
  | config {w h : BitVec 16} (hw : w.toNat ≠ 0) (hh : h.toNat ≠ 0) (hn : w.toNat * h.toNat ≤ s.maxN) :
      Effect s (.config w h) .ok
        { s.clear with w := w.toNat, h := h.toNat, n := w.toNat * h.toNat, cfg := true }
  | cinit (hc : s.cfg = true) :
      Effect s .cinit .ok
        { s with
          cprev := Memory.fill s.cprev (fun _ => 0) (s.h * s.w)
          cwidth := 0, csize := 0, minPix := 0xFFFF, maxPix := 0x0000 }
  | dinit (hc : s.cfg = true) :
      Effect s .dinit .ok { s with dprev := Memory.fill s.dprev (fun _ => 0) (s.h * s.w) }
  | rdreg {n : Value} : Effect s (.rdreg n) .ok s
  | wrpix {y x : BitVec 16} {v : Pixel} (hc : s.cfg = true) (hyx : s.pixelInRange y x = true) :
      Effect s (.wrpix y x v) .ok { s with fin := Memory.write s.fin (raster s.w y.toNat x.toNat) v }
  | rdpix {sel : BitVec 8} {y x : BitVec 16} (hc : s.cfg = true) : Effect s (.rdpix sel y x) .ok s
  | wrib {j : Value} {b : Byte} (hj : j.toNat < s.bufcap) :
      Effect s (.wrib j b) .ok { s with ibuf := Memory.write s.ibuf j.toNat b }
  | rdob {j : Value} (hj : j.toNat < s.olen) : Effect s (.rdob j) .ok s
  | pkinit {w : BitVec 8} (hw : widthLegal w = true) :
      Effect s (.pkinit w) .ok ({ s with olen := 0 }.pkInit w.toNat)
  | pkpush {v : Value} (ho : s.pkW ≠ 0) (hfit : s.olen + s.pushBytes ≤ s.bufcap) :
      Effect s (.pkpush v) .ok (s.pkPush (pushValue v))
  | pkflush (ho : s.pkW ≠ 0) (hfit : s.olen + s.flushBytes ≤ s.bufcap) : Effect s .pkflush .ok s.pkFlush
  | upinit {w : BitVec 8} {size : Value} (hw : widthLegal w = true) (hs : size.toNat ≤ s.bufcap) :
      Effect s (.upinit w size) .ok ({ s with ilen := size.toNat, iptr := 0 }.upInit w.toNat)
  | uppopValue {v : Int} (ho : s.upW ≠ 0) (hv : s.upPop.1 = some v) : Effect s .uppop .ok s.upPop.2
  | uppopEnd (ho : s.upW ≠ 0) (hv : s.upPop.1 = none) : Effect s .uppop .endOfStream s.upPop.2
  | compress (hc : s.cfg = true) : Effect s .compress .ok s.compressed
  | decompressTooShort {w : BitVec 8} {size : Value} (hc : s.cfg = true) (hw : widthLegal w = true)
      (hs : size.toNat ≤ s.bufcap) (h4 : size.toNat < 4) :
      Effect s (.decompress w size) .endOfStream { s with ilen := size.toNat, iptr := size.toNat }.upClose
  | decompressEnd {w : BitVec 8} {size : Value} (hc : s.cfg = true) (hw : widthLegal w = true)
      (hs : size.toNat ≤ s.bufcap) (h4 : 4 ≤ size.toNat) (hd : (s.decoded w.toNat size.toNat).1 = none) :
      Effect s (.decompress w size) .endOfStream (s.decoded w.toNat size.toNat).2.upClose
  | decompressFrame {w : BitVec 8} {size : Value} {ds : List Int} (hc : s.cfg = true)
      (hw : widthLegal w = true) (hs : size.toNat ≤ s.bufcap) (h4 : 4 ≤ size.toNat)
      (hd : (s.decoded w.toNat size.toNat).1 = some ds) :
      Effect s (.decompress w size) .ok
        ((s.decoded w.toNat size.toNat).2.placeFrame (s.firstDelta :: ds)).upClose

/-- The outcome `o` is an effect of the command followed by its one response, bare when it is an error. -/
def Answers (s : State) (i : Instr) (o : Host.Outcome State Fault Refusal) : Prop :=
  ∃ u e aux val, o = .next (u.respond e aux val) ∧ (e ≠ .ok → aux = 0 ∧ val = 0) ∧ Effect s i e u

section
variable {s u : State} {i : Instr}

theorem answers_raise {e : Err} (hok : e ≠ .ok) (hend : e ≠ .endOfStream) : Answers s i (raise e s) :=
  ⟨s, e, 0, 0, rfl, fun _ => ⟨rfl, rfl⟩, .refused hok hend⟩

theorem answers_raise_endOfStream (h : Effect s i .endOfStream u) : Answers s i (raise .endOfStream u) :=
  ⟨u, .endOfStream, 0, 0, rfl, fun _ => ⟨rfl, rfl⟩, h⟩

theorem answers_finish (aux : BitVec 8) (val : Value) (h : Effect s i .ok u) : Answers s i (finish aux val u) :=
  ⟨u, .ok, aux, val, rfl, fun h => absurd rfl h, h⟩

end

/-! ### Each command has one of its effects -/

theorem answers_execConfig (w h : BitVec 16) (s : State) : Answers s (.config w h) (execConfig w h s) := by
  unfold execConfig
  split
  · exact answers_raise (by decide) (by decide)
  next hz =>
    split
    · exact answers_raise (by decide) (by decide)
    next hn => exact answers_finish _ _ (.config (fun h0 => hz (.inl h0)) (fun h0 => hz (.inr h0)) (by omega))

theorem answers_execCinit (s : State) : Answers s .cinit (execCinit s) := by
  unfold execCinit
  split
  · exact answers_raise (by decide) (by decide)
  next hc => exact answers_finish _ _ (.cinit (by simpa using hc))

theorem answers_execDinit (s : State) : Answers s .dinit (execDinit s) := by
  unfold execDinit
  split
  · exact answers_raise (by decide) (by decide)
  next hc => exact answers_finish _ _ (.dinit (by simpa using hc))

theorem answers_execRdreg (n : Value) (s : State) : Answers s (.rdreg n) (execRdreg n s) := by
  unfold execRdreg
  split
  · exact answers_raise (by decide) (by decide)
  · exact answers_finish _ _ .rdreg

theorem answers_execWrpix (y x : BitVec 16) (v : Pixel) (s : State) :
    Answers s (.wrpix y x v) (execWrpix y x v s) := by
  unfold execWrpix
  split
  · exact answers_raise (by decide) (by decide)
  next hc =>
    split
    · exact answers_raise (by decide) (by decide)
    next hyx => exact answers_finish _ _ (.wrpix (by simpa using hc) (by simpa using hyx))

theorem answers_execRdpix (sel : BitVec 8) (y x : BitVec 16) (s : State) :
    Answers s (.rdpix sel y x) (execRdpix sel y x s) := by
  unfold execRdpix
  split
  · exact answers_raise (by decide) (by decide)
  next hc =>
    split
    · exact answers_raise (by decide) (by decide)
    · split
      · exact answers_raise (by decide) (by decide)
      · exact answers_finish _ _ (.rdpix (by simpa using hc))

theorem answers_execWrib (j : Value) (b : Byte) (s : State) : Answers s (.wrib j b) (execWrib j b s) := by
  unfold execWrib
  split
  · exact answers_raise (by decide) (by decide)
  next hj => exact answers_finish _ _ (.wrib (by omega))

theorem answers_execRdob (j : Value) (s : State) : Answers s (.rdob j) (execRdob j s) := by
  unfold execRdob
  split
  · exact answers_raise (by decide) (by decide)
  next hj => exact answers_finish _ _ (.rdob (by omega))

theorem answers_execPkinit (w : BitVec 8) (s : State) : Answers s (.pkinit w) (execPkinit w s) := by
  unfold execPkinit
  split
  · exact answers_raise (by decide) (by decide)
  next hw => exact answers_finish _ _ (.pkinit (by simpa using hw))

theorem answers_execPkpush (v : Value) (s : State) : Answers s (.pkpush v) (execPkpush v s) := by
  unfold execPkpush
  split
  · exact answers_raise (by decide) (by decide)
  next ho =>
    split
    · exact answers_raise (by decide) (by decide)
    next hfit => exact answers_finish _ _ (.pkpush ho (by omega))

theorem answers_execPkflush (s : State) : Answers s .pkflush (execPkflush s) := by
  unfold execPkflush
  split
  · exact answers_raise (by decide) (by decide)
  next ho =>
    split
    · exact answers_raise (by decide) (by decide)
    next hfit => exact answers_finish _ _ (.pkflush ho (by omega))

theorem answers_execUpinit (w : BitVec 8) (size : Value) (s : State) :
    Answers s (.upinit w size) (execUpinit w size s) := by
  unfold execUpinit
  split
  · exact answers_raise (by decide) (by decide)
  next hw =>
    split
    · exact answers_raise (by decide) (by decide)
    next hs => exact answers_finish _ _ (.upinit (by simpa using hw) (by omega))

theorem answers_execUppop (s : State) : Answers s .uppop (execUppop s) := by
  unfold execUppop
  split
  · exact answers_raise (by decide) (by decide)
  next ho =>
    split
    next v t heq =>
      obtain rfl : s.upPop.2 = t := by rw [heq]
      exact answers_finish _ _ (.uppopValue ho (by rw [heq]))
    next t heq =>
      obtain rfl : s.upPop.2 = t := by rw [heq]
      exact answers_raise_endOfStream (.uppopEnd ho (by rw [heq]))

theorem answers_execCompress (s : State) : Answers s .compress (execCompress s) := by
  unfold execCompress
  split
  · exact answers_raise (by decide) (by decide)
  next hc => exact answers_finish _ _ (.compress (by simpa using hc))

theorem answers_execDecompress (w : BitVec 8) (size : Value) (s : State) :
    Answers s (.decompress w size) (execDecompress w size s) := by
  unfold execDecompress
  split
  · exact answers_raise (by decide) (by decide)
  next hc =>
    rw [Bool.not_eq_false] at hc
    split
    · exact answers_raise (by decide) (by decide)
    next hw =>
      rw [Bool.not_eq_false] at hw
      split
      · exact answers_raise (by decide) (by decide)
      next hs =>
        rw [Nat.not_lt] at hs
        split
        next h4 => exact answers_raise_endOfStream (.decompressTooShort hc hw hs h4)
        next h4 =>
          rw [Nat.not_lt] at h4
          split
          next t heq =>
            obtain rfl : (s.decoded w.toNat size.toNat).2 = t := by rw [State.decoded, heq]
            exact answers_raise_endOfStream (.decompressEnd hc hw hs h4 (by rw [State.decoded, heq]))
          next ds t heq =>
            obtain rfl : (s.decoded w.toNat size.toNat).2 = t := by rw [State.decoded, heq]
            exact answers_finish _ _ (.decompressFrame hc hw hs h4 (by rw [State.decoded, heq]))

/-- Every command, in every state, ends with one response after one of its effects (30_encoding.md R68). -/
theorem answers_exec (i : Instr) (s : State) : Answers s i (exec i s) := by
  cases i with
  | reset => exact answers_finish 0 0 .reset
  | config w h => exact answers_execConfig w h s
  | cinit => exact answers_execCinit s
  | dinit => exact answers_execDinit s
  | rdreg n => exact answers_execRdreg n s
  | wrpix y x v => exact answers_execWrpix y x v s
  | rdpix sel y x => exact answers_execRdpix sel y x s
  | wrib j b => exact answers_execWrib j b s
  | rdob j => exact answers_execRdob j s
  | pkinit w => exact answers_execPkinit w s
  | pkpush v => exact answers_execPkpush v s
  | pkflush => exact answers_execPkflush s
  | upinit w size => exact answers_execUpinit w size s
  | uppop => exact answers_execUppop s
  | compress => exact answers_execCompress s
  | decompress w size => exact answers_execDecompress w size s

/-- The same, from the state after the command. -/
theorem exec_inversion {i : Instr} {s t : State} (h : exec i s = .next t) :
    ∃ u e aux val, t = u.respond e aux val ∧ (e ≠ .ok → aux = 0 ∧ val = 0) ∧ Effect s i e u := by
  obtain ⟨u, e, aux, val, hexec, hbare, heff⟩ := answers_exec i s
  rw [h] at hexec
  exact ⟨u, e, aux, val, Host.Outcome.next.inj hexec, hbare, heff⟩

/-! ### The compressor's pipeline leaves the rest of the state alone -/

/-- The payload goes to `OBUF`, and the packer is left closed (41_codec.md R102). -/
theorem emitPayload_frame (s : State) (d0 : Int) (a : List Int) (w : Nat) :
    s.emitPayload d0 a w =
      { s with
        obuf := (s.emitPayload d0 a w).obuf, olen := (s.emitPayload d0 a w).olen
        pkAcc := 0, pkCnt := 0, pkW := 0 } := by
  rw [State.emitPayload, pkFlush_frame, pkPushAll_frame, State.pkInit, emitAll_frame]

/-- `COMPRESS` writes `CPREV`, `OBUF` and the results, and leaves the packer closed (41_codec.md R103). -/
theorem compressed_frame (s : State) :
    s.compressed =
      { s with
        cprev := Memory.fill s.cprev (Memory.read s.fin) (s.h * s.w)
        obuf := s.compressed.obuf, olen := s.compressed.olen, pkAcc := 0, pkCnt := 0, pkW := 0
        cwidth := s.frameWidth, csize := s.compressed.olen
        minPix := minFrom s.interiorPixels, maxPix := maxFrom s.interiorPixels } := by
  rw [State.compressed, emitPayload_frame, State.updateCprev]

/-- Decoding the deltas writes the unpacker only (41_codec.md R106). -/
theorem decoded_frame (s : State) (w size : Nat) :
    (s.decoded w size).2 =
      { s with
        upW := w, upAcc := (s.decoded w size).2.upAcc, upCnt := (s.decoded w size).2.upCnt
        ilen := size, iptr := (s.decoded w size).2.iptr } := by
  rw [State.decoded, popDeltas_frame, State.upInit]

/-! ### What no command touches: the host's inputs, the trace so far, the parameter -/

section
variable {s u : State} {i : Instr} {e : Err}

theorem Effect.host_kept (h : Effect s i e u) : u.inputs = s.inputs ∧ u.trace = s.trace ∧ u.maxN = s.maxN := by
  cases h with
  | compress => rw [compressed_frame]; exact ⟨rfl, rfl, rfl⟩
  | decompressEnd | decompressFrame => rw [decoded_frame]; exact ⟨rfl, rfl, rfl⟩
  | _ => simp

end

/-- Settles O15: the response is the last thing a command does, after an effect that touches neither the trace
nor the host's inputs. -/
theorem everyCommandReturnsOneResponse : Obligations.EveryCommandReturnsOneResponse := by
  intro i s
  obtain ⟨u, e, aux, val, hexec, hbare, heff⟩ := answers_exec i s
  obtain ⟨hinputs, htrace, hmaxN⟩ := heff.host_kept
  exact ⟨u.respond e aux val, e, aux, val, hexec, by rw [respond_trace, htrace], rfl, hbare, hinputs, hmaxN⟩

end Sys2Proof.Machine

/-! Which command writes which state: the blank cells of the table of spec/10_state.md R34, one lemma a group of
columns. -/

namespace Sys2Proof.Machine

open Sys2Proof.Claims

section
variable {s u : State} {i : Instr} {e : Err}

/-- Only `RESET` and `CONFIG` write the geometry. -/
theorem Effect.geometry_kept (h : Effect s i e u) (hi : clearsAll i = false) :
    u.cfg = s.cfg ∧ u.w = s.w ∧ u.h = s.h ∧ u.n = s.n := by
  cases h with
  | reset | config => cases hi
  | compress => rw [compressed_frame]; exact ⟨rfl, rfl, rfl, rfl⟩
  | decompressEnd | decompressFrame => rw [decoded_frame]; exact ⟨rfl, rfl, rfl, rfl⟩
  | _ => simp

/-- Only the packer's commands and `COMPRESS` write the packer and `OBUF`. -/
theorem Effect.packer_kept (h : Effect s i e u) (hi : clearsAll i = false) (hp : usesPacker i = false) :
    u.pkW = s.pkW ∧ u.pkAcc = s.pkAcc ∧ u.pkCnt = s.pkCnt ∧ u.obuf = s.obuf ∧ u.olen = s.olen := by
  cases h with
  | reset | config => cases hi
  | pkinit | pkpush | pkflush | compress => cases hp
  | decompressEnd | decompressFrame => rw [decoded_frame]; exact ⟨rfl, rfl, rfl, rfl, rfl⟩
  | _ => simp

/-- Only the unpacker's commands and `DECOMPRESS` write the unpacker, `ILEN` and `IPTR`. -/
theorem Effect.unpacker_kept (h : Effect s i e u) (hi : clearsAll i = false) (hp : usesUnpacker i = false) :
    u.upW = s.upW ∧ u.upAcc = s.upAcc ∧ u.upCnt = s.upCnt ∧ u.ilen = s.ilen ∧ u.iptr = s.iptr := by
  cases h with
  | reset | config => cases hi
  | upinit | uppopValue | uppopEnd | decompressTooShort | decompressEnd | decompressFrame => cases hp
  | compress => rw [compressed_frame]; exact ⟨rfl, rfl, rfl, rfl, rfl⟩
  | _ => simp

/-- Only `WRIB` writes bytes of `IBUF`. -/
theorem Effect.ibuf_kept (h : Effect s i e u) (hi : clearsAll i = false) (hb : ∀ j b, i ≠ .wrib j b) :
    u.ibuf = s.ibuf := by
  cases h with
  | reset | config => cases hi
  | wrib => exact absurd rfl (hb _ _)
  | compress => rw [compressed_frame]
  | decompressEnd | decompressFrame => rw [decoded_frame]; rfl
  | _ => simp

/-- Only `WRPIX` writes pixels of `FIN`. -/
theorem Effect.fin_kept (h : Effect s i e u) (hi : clearsAll i = false) (hp : ∀ y x v, i ≠ .wrpix y x v) :
    u.fin = s.fin := by
  cases h with
  | reset | config => cases hi
  | wrpix => exact absurd rfl (hp _ _ _)
  | compress => rw [compressed_frame]
  | decompressEnd | decompressFrame => rw [decoded_frame]; rfl
  | _ => simp

/-- Only `COMPRESS` and `CINIT` write the compressor's previous frame and its results. -/
theorem Effect.compressor_kept (h : Effect s i e u) (hi : clearsAll i = false) (hc : i ≠ .compress)
    (hn : i ≠ .cinit) :
    u.cprev = s.cprev ∧ u.cwidth = s.cwidth ∧ u.csize = s.csize ∧ u.minPix = s.minPix ∧ u.maxPix = s.maxPix := by
  cases h with
  | reset | config => cases hi
  | compress => exact absurd rfl hc
  | cinit => exact absurd rfl hn
  | decompressEnd | decompressFrame => rw [decoded_frame]; exact ⟨rfl, rfl, rfl, rfl, rfl⟩
  | _ => simp

/-- Only `DECOMPRESS` writes the decompressor's frames, but that `DINIT` clears `DPREV`. -/
theorem Effect.decompressor_kept (h : Effect s i e u) (hi : clearsAll i = false)
    (hd : ∀ k size, i ≠ .decompress k size) : u.fout = s.fout ∧ (i ≠ .dinit → u.dprev = s.dprev) := by
  cases h with
  | reset | config => cases hi
  | decompressTooShort | decompressEnd | decompressFrame => exact absurd rfl (hd _ _)
  | compress => rw [compressed_frame]; exact ⟨rfl, fun _ => rfl⟩
  | _ => simp

end

/-- Settles O19: the response writes `LASTERR` only, so a blank cell of the table is one that no effect of the
command writes. -/
theorem commandsWriteOnlyTheirState : Obligations.CommandsWriteOnlyTheirState := by
  intro i s t hexec hi
  obtain ⟨u, e, aux, val, rfl, -, h⟩ := exec_inversion hexec
  exact ⟨h.geometry_kept hi, h.packer_kept hi, h.unpacker_kept hi, h.ibuf_kept hi, h.fin_kept hi,
    h.compressor_kept hi, h.decompressor_kept hi⟩

end Sys2Proof.Machine

/-! Every step keeps the invariant of the state. First what a buffer, the packer, the unpacker and the codec's
pipelines keep, then one lemma for each command that writes something. -/

namespace Sys2Proof.Machine

/-! ### Buffers -/

section
variable {k : Nat}

theorem Memory.read_of_mem {m : Memory k} (hm : m.wf = true) {p : Nat × BitVec k} (hp : p ∈ m) :
    m.read p.1 = p.2 := by
  induction m with
  | nil => cases hp
  | cons c m ih =>
    obtain ⟨a, v⟩ := c
    obtain ⟨-, hlt, hwf⟩ := Memory.wf_cons.1 hm
    rcases List.mem_cons.1 hp with rfl | hp
    · rw [Memory.read, if_pos rfl]
    · rw [Memory.read, if_neg (Nat.ne_of_lt (hlt p hp)), ih hwf hp]

/-- A canonical buffer that reads as a bounded one from the bound on has the same bound. -/
theorem Memory.below_of_read_eq {m m' : Memory k} {n : Nat} (hm' : m'.wf = true) (hm : m.below n = true)
    (h : ∀ i, n ≤ i → m'.read i = m.read i) : m'.below n = true := by
  rw [Memory.below_iff]
  intro p hp
  by_contra hlt
  rw [Nat.not_lt] at hlt
  have hzero : p.2 = unlisted k := by
    rw [← Memory.read_of_mem hm' hp, h _ hlt, Memory.read_of_below hm hlt]; rfl
  exact ((Memory.wf_iff m').1 hm').2 p hp hzero

end

/-! ### The packer -/

theorem pkPush_bufcap (s : State) (v : Int) : (s.pkPush v).bufcap = s.bufcap := by simp [State.bufcap]

theorem pkPushAll_bufcap (s : State) (vs : List Int) : (s.pkPushAll vs).bufcap = s.bufcap := by
  simp [State.bufcap]

theorem pkFlush_bufcap (s : State) : s.pkFlush.bufcap = s.bufcap := by simp [State.bufcap]

/-- The packer can go on: what `PackerInv` and `BufferInv` say of it but for the bound on `OLEN`, with the count
as the range that is left of it when the pushes so far are forgotten. -/
structure State.PackerReady (s : State) : Prop where
  wf : s.obuf.wf = true
  below : s.obuf.below s.bufcap = true
  width : s.pkW ≤ 32
  count : s.pkCnt ≤ 7
  zeros : s.pkAcc.toNat % 2 ^ (40 - s.pkCnt) = 0

theorem State.Inv.packerReady {s : State} (h : s.Inv) : s.PackerReady := by
  obtain ⟨hwidth, ⟨k, hcount⟩, hzeros, -⟩ := h.packer
  obtain ⟨⟨hwf, hbelow⟩, -⟩ := h.buffers
  exact ⟨hwf, hbelow, hwidth, by omega, hzeros⟩

/-- A push whose bytes fit. -/
theorem State.PackerReady.pkPush {s : State} (h : s.PackerReady) (v : Int)
    (hfit : s.olen + s.pushBytes ≤ s.bufcap) : (s.pkPush v).PackerReady := by
  have hwidth := h.width
  have hcount := h.count
  obtain ⟨-, hcnt, hwf, hread, hzeros, -⟩ := pkPush_spec s v h.wf (by omega) h.zeros
  refine ⟨hwf, ?_, by simpa using hwidth, by omega, hzeros⟩
  rw [pkPush_bufcap]
  exact Memory.below_of_read_eq hwf h.below fun i hi => hread i (by omega)

/-- A push adds `PK_W` bits to those emitted and pending. -/
theorem State.PackerReady.pkPush_bits {s : State} (h : s.PackerReady) (v : Int) :
    8 * (s.pkPush v).olen + (s.pkPush v).pkCnt = 8 * s.olen + s.pkCnt + s.pkW := by
  have hwidth := h.width
  have hcount := h.count
  obtain ⟨holen, hcnt, -⟩ := pkPush_spec s v h.wf (by omega) h.zeros
  unfold State.pushBytes at holen
  omega

/-- A sequence of pushes whose bits fit. -/
theorem State.PackerReady.pkPushAll {s : State} (h : s.PackerReady) (vs : List Int)
    (hfit : 8 * s.olen + s.pkCnt + vs.length * s.pkW ≤ 8 * s.bufcap) :
    (s.pkPushAll vs).PackerReady ∧
    8 * (s.pkPushAll vs).olen + (s.pkPushAll vs).pkCnt = 8 * s.olen + s.pkCnt + vs.length * s.pkW := by
  induction vs generalizing s with
  | nil => exact ⟨h, by simp [State.pkPushAll]⟩
  | cons v vs ih =>
    rw [List.length_cons, Nat.succ_mul vs.length] at hfit ⊢
    have hbits := h.pkPush_bits v
    obtain ⟨hready, hall⟩ := ih (h.pkPush v (by unfold State.pushBytes; omega))
      (by rw [pkPush_bufcap, pkPush_pkW]; omega)
    rw [pkPush_pkW] at hall
    exact ⟨hready, by rw [State.pkPushAll]; omega⟩

/-- A flush whose byte fits. -/
theorem State.PackerReady.pkFlush {s : State} (h : s.PackerReady) (hfit : s.olen + s.flushBytes ≤ s.bufcap) :
    s.pkFlush.PackerReady ∧ s.pkFlush.olen = s.olen + s.flushBytes := by
  obtain ⟨holen, hwf, hread, -⟩ := pkFlush_spec s h.wf h.count h.zeros
  refine ⟨⟨hwf, ?_, by simp, by simp, by simp⟩, holen⟩
  rw [pkFlush_bufcap]
  refine Memory.below_of_read_eq hwf h.below fun i hi => hread i ?_
  unfold State.flushBytes at hfit
  split at hfit <;> omega

/-- The bytes of a list, written where they fit. -/
theorem emitAll_buffer {s : State} (bs : List Byte) (hwf : s.obuf.wf = true)
    (hbelow : s.obuf.below s.bufcap = true) (hfit : s.olen + bs.length ≤ s.bufcap) :
    (s.emitAll bs).obuf.wf = true ∧ (s.emitAll bs).obuf.below s.bufcap = true ∧
    (s.emitAll bs).olen = s.olen + bs.length := by
  induction bs generalizing s with
  | nil => exact ⟨hwf, hbelow, rfl⟩
  | cons b bs ih =>
    rw [List.length_cons] at hfit ⊢
    have hcap : (s.emit b).bufcap = s.bufcap := rfl
    obtain ⟨hwf', hbelow', holen⟩ := ih (s := s.emit b) (Memory.wf_write _ _ hwf)
      (Memory.below_write _ hbelow (by omega)) (by rw [hcap, emit_olen]; omega)
    rw [hcap] at hbelow'
    rw [emit_olen] at holen
    exact ⟨hwf', hbelow', by rw [State.emitAll]; omega⟩

/-! ### The unpacker -/

/-- The loop reads no byte past `ILEN`. -/
theorem upFetch_iptr_le (fuel : Nat) (s : State) (h : s.iptr ≤ s.ilen) :
    (State.upFetch fuel s).2.iptr ≤ s.ilen := by
  induction fuel generalizing s with
  | zero => exact h
  | succ fuel ih =>
    rw [State.upFetch]
    split
    · exact h
    · split
      · exact h
      next hne => exact ih s.upTakeByte (by rw [upTakeByte_iptr, upTakeByte_ilen]; omega)

/-- A pop reads no byte past `ILEN`. -/
theorem upPop_iptr_le (s : State) (h : s.iptr ≤ s.ilen) : s.upPop.2.iptr ≤ s.ilen := by
  have hfetch := upFetch_iptr_le s.upW s h
  rw [State.upPop]
  split <;> next t heq => rw [heq] at hfetch; exact hfetch

/-- Decoding the deltas reads no byte past `ILEN`. -/
theorem popDeltas_iptr_le (k : Nat) (d : Int) (s : State) (h : s.iptr ≤ s.ilen) :
    (State.popDeltas k d s).2.iptr ≤ s.ilen := by
  induction k generalizing d s with
  | zero => exact h
  | succ k ih =>
    have hpop := upPop_iptr_le s h
    have hilen := upPop_ilen s
    rw [State.popDeltas]
    split
    next t heq => rw [heq] at hpop; exact hpop
    next a t heq =>
      rw [heq] at hpop hilen
      rw [← hilen] at hpop ⊢
      exact ih _ t hpop

theorem decoded_iptr_le (s : State) (w : Nat) {size : Nat} (h4 : 4 ≤ size) :
    (s.decoded w size).2.iptr ≤ size :=
  popDeltas_iptr_le (s.n - 1) s.firstDelta (State.upInit { s with ilen := size, iptr := 4 } w) h4

/-- An open unpacker keeps its invariant over a pop, also over one that meets the end of the stream. -/
theorem State.UnpackerInv.upPop {s : State} (h : s.UnpackerInv) (ho : s.upW ≠ 0) : s.upPop.2.UnpackerInv := by
  obtain ⟨hwidth, hcount, -, hzeros, hptr, hlen, k, hk⟩ := h
  obtain ⟨hfull, hshort⟩ := upPop_spec s hwidth (by omega) hzeros hptr
  have hcap : s.upPop.2.bufcap = s.bufcap := by simp [State.bufcap]
  unfold State.UnpackerInv
  rw [hcap, upPop_upW, upPop_ilen]
  rcases Nat.lt_or_ge s.upLeft s.upNeed with hlt | hle
  · obtain ⟨-, hiptr, hcnt, hz, -⟩ := hshort hlt
    clear hfull hshort
    unfold State.upNeed at hlt
    exact ⟨hwidth, by omega, fun h0 => absurd h0 ho, hz, by omega, hlen, k, by omega⟩
  · obtain ⟨hiptr, hcnt, hz, -⟩ := hfull hle
    clear hfull hshort
    unfold State.upNeed at hle hiptr hcnt
    unfold State.upLeft at hle
    refine ⟨hwidth, by omega, fun h0 => absurd h0 ho, hz, by omega, hlen, k + 1, ?_⟩
    rw [Nat.succ_mul k]
    omega

/-! ### The compressor's width and extremes -/

theorem deltaAt_natAbs_le (s : State) (i : Nat) : (s.deltaAt i).natAbs ≤ 65535 := by
  have h1 := (pixel s.fin s.w (unsnake s.w i).1 (unsnake s.w i).2).isLt
  have h2 := (pixel s.cprev s.w (unsnake s.w i).1 (unsnake s.w i).2).isLt
  simp only [State.deltaAt]
  omega

theorem natAbs_le_of_mem_deltas {s : State} {d : Int} (hd : d ∈ s.deltas) : d.natAbs ≤ 65535 := by
  obtain ⟨i, -, rfl⟩ := List.mem_map.1 hd
  exact deltaAt_natAbs_le s i

/-- The difference of neighbours is at most twice as far from 0 as they are. -/
theorem natAbs_le_of_mem_adjacent {ds : List Int} {b : Nat} (h : ∀ d ∈ ds, d.natAbs ≤ b) :
    ∀ a ∈ adjacent ds, a.natAbs ≤ 2 * b := by
  induction ds using adjacent.induct with
  | case1 d e ds ih =>
    rw [adjacent]
    intro a ha
    rcases List.mem_cons.1 ha with rfl | ha
    · have hd := h d (by simp)
      have he := h e (by simp)
      omega
    · exact ih (fun x hx => h x (List.mem_cons_of_mem _ hx)) a ha
  | case2 ds hshort =>
    rw [adjacent]
    · simp
    · exact hshort

theorem length_adjacent (ds : List Int) : (adjacent ds).length = ds.length - 1 := by
  induction ds using adjacent.induct with
  | case1 d e ds ih => rw [adjacent, List.length_cons, ih]; simp
  | case2 ds hshort =>
    rw [adjacent]
    · rcases ds with _ | ⟨d, _ | ⟨e, ds⟩⟩
      · rfl
      · rfl
      · exact (hshort d e ds rfl).elim
    · exact hshort

theorem foldl_max_natAbs_le {a : List Int} {m b : Nat} (hm : m ≤ b) (h : ∀ v ∈ a, v.natAbs ≤ b) :
    a.foldl (fun m v => max m v.natAbs) m ≤ b := by
  induction a generalizing m with
  | nil => exact hm
  | cons v a ih =>
    rw [List.foldl_cons]
    exact ih (Nat.max_le.2 ⟨hm, h v (by simp)⟩) fun x hx => h x (List.mem_cons_of_mem _ hx)

theorem bitlen_le {m k : Nat} (h : m < 2 ^ k) : bitlen m ≤ k := by
  unfold bitlen
  split
  · exact Nat.zero_le k
  next h0 => exact (Nat.log2_lt h0).2 h

/-- The width is at least 1 and, a delta being the difference of two 16-bit pixels, at most 18 (R100, R101). -/
theorem frameWidth_bounds (s : State) : 1 ≤ s.frameWidth ∧ s.frameWidth ≤ 18 := by
  have hmax : maxAbs (adjacent s.deltas) ≤ 2 * 65535 :=
    foldl_max_natAbs_le (Nat.zero_le _) (natAbs_le_of_mem_adjacent fun _ => natAbs_le_of_mem_deltas)
  have hlen : bitlen (maxAbs (adjacent s.deltas)) ≤ 17 := bitlen_le (by omega)
  unfold State.frameWidth chooseWidth
  omega

theorem minFrom_foldl_le (ps : List Pixel) (m : Pixel) :
    let r := ps.foldl (fun m c => if c.toNat < m.toNat then c else m) m
    r.toNat ≤ m.toNat ∧ ∀ p ∈ ps, r.toNat ≤ p.toNat := by
  induction ps generalizing m with
  | nil => simp
  | cons c ps ih =>
    obtain ⟨hinit, hmem⟩ := ih (if c.toNat < m.toNat then c else m)
    have hle : (if c.toNat < m.toNat then c else m).toNat ≤ min c.toNat m.toNat := by split <;> omega
    simp only [List.foldl_cons, List.forall_mem_cons]
    exact ⟨by omega, by omega, hmem⟩

theorem le_maxFrom_foldl (ps : List Pixel) (m : Pixel) :
    let r := ps.foldl (fun m c => if m.toNat < c.toNat then c else m) m
    m.toNat ≤ r.toNat ∧ ∀ p ∈ ps, p.toNat ≤ r.toNat := by
  induction ps generalizing m with
  | nil => simp
  | cons c ps ih =>
    obtain ⟨hinit, hmem⟩ := ih (if m.toNat < c.toNat then c else m)
    have hle : max c.toNat m.toNat ≤ (if m.toNat < c.toNat then c else m).toNat := by split <;> omega
    simp only [List.foldl_cons, List.forall_mem_cons]
    exact ⟨by omega, by omega, hmem⟩

theorem minFrom_le {ps : List Pixel} {p : Pixel} (hp : p ∈ ps) : (minFrom ps).toNat ≤ p.toNat :=
  (minFrom_foldl_le ps 0xFFFF).2 p hp

theorem le_maxFrom {ps : List Pixel} {p : Pixel} (hp : p ∈ ps) : p.toNat ≤ (maxFrom ps).toNat :=
  (le_maxFrom_foldl ps 0x0000).2 p hp

/-- The extremes are in order, but for the pair that no pixel gives (10_state.md R25). -/
theorem extremes_ordered (ps : List Pixel) :
    (minFrom ps).toNat ≤ (maxFrom ps).toNat ∨ (minFrom ps = 0xFFFF ∧ maxFrom ps = 0x0000) := by
  cases ps with
  | nil => exact .inr ⟨rfl, rfl⟩
  | cons p ps => exact .inl ((minFrom_le List.mem_cons_self).trans (le_maxFrom List.mem_cons_self))

/-! ### The payload -/

/-- A payload that fits takes the bytes R59 counts, and leaves `OBUF` in order. -/
theorem emitPayload_buffer {s : State} (d0 : Int) (a : List Int) {w : Nat} (hwf : s.obuf.wf = true)
    (hbelow : s.obuf.below s.bufcap = true) (hw : w ≤ 32) (hfit : 4 + bytesFor (a.length * w) ≤ s.bufcap) :
    (s.emitPayload d0 a w).obuf.wf = true ∧ (s.emitPayload d0 a w).obuf.below s.bufcap = true ∧
    (s.emitPayload d0 a w).olen = 4 + bytesFor (a.length * w) := by
  let start := (State.emitAll { s with olen := 0 } (le32 d0)).pkInit w
  have hfour : (le32 d0).length = 4 := rfl
  obtain ⟨hwf4, hbelow4, holen4⟩ := emitAll_buffer (s := { s with olen := 0 }) (le32 d0) hwf hbelow
    (by change 0 + (le32 d0).length ≤ s.bufcap; omega)
  have hstart : start.olen = 4 := holen4
  have hcap : start.bufcap = s.bufcap := by simp [start, State.bufcap]
  have hready : start.PackerReady := ⟨hwf4, by rw [hcap]; exact hbelow4, hw, Nat.zero_le 7, Nat.zero_mod _⟩
  unfold bytesFor at hfit ⊢
  obtain ⟨hpushed, hbits⟩ := hready.pkPushAll a (by
    rw [hcap, hstart]; change 8 * 4 + 0 + a.length * w ≤ _; omega)
  have hbits' : 8 * (start.pkPushAll a).olen + (start.pkPushAll a).pkCnt = 32 + a.length * w := by
    rw [hbits, hstart]; rfl
  have hcap' : (start.pkPushAll a).bufcap = s.bufcap := by rw [pkPushAll_bufcap, hcap]
  have hcount := hpushed.count
  have hlen : (start.pkPushAll a).olen + (start.pkPushAll a).flushBytes = 4 + (a.length * w + 7) / 8 := by
    unfold State.flushBytes
    split <;> omega
  obtain ⟨hflushed, holen⟩ := hpushed.pkFlush (by omega)
  have hcap'' : (start.pkPushAll a).pkFlush.bufcap = s.bufcap := by rw [pkFlush_bufcap, hcap']
  exact ⟨hflushed.wf, hcap'' ▸ hflushed.below, holen.trans hlen⟩

end Sys2Proof.Machine

namespace Sys2Proof.Machine

/-! ### One lemma for each command that writes something -/

theorem widthLegal_iff (w : BitVec 8) : widthLegal w = true ↔ 1 ≤ w.toNat ∧ w.toNat ≤ 32 := by
  simp [widthLegal]

namespace State.Inv

variable {s : State}

theorem respond (h : s.Inv) (e : Err) (aux : BitVec 8) (val : Value) : (s.respond e aux val).Inv :=
  have hcode : e.code.toNat ≤ 7 := by cases e <;> decide
  have ⟨hcwidth, hcsize, hnone, hpix, _⟩ := h.results
  { h with results := ⟨hcwidth, hcsize, hnone, hpix, hcode⟩ }

theorem setInputs (h : s.Inv) (rest : List HostInput) : State.Inv { s with inputs := rest } := { h with }

theorem geometry_of_cfg (h : s.Inv) (hc : s.cfg = true) :
    1 ≤ s.w ∧ s.w ≤ 65535 ∧ 1 ≤ s.h ∧ s.h ≤ 65535 ∧ s.n = s.w * s.h ∧ s.n ≤ s.maxN := h.geometry.1 hc

/-- A loop over the rows and columns of the frame ends where the frame buffers do. -/
theorem frame_cells (h : s.Inv) (hc : s.cfg = true) : s.h * s.w = s.n := by
  obtain ⟨-, -, -, -, hn, -⟩ := h.geometry_of_cfg hc
  rw [hn, Nat.mul_comm]

theorem clear (h : s.Inv) : s.clear.Inv where
  param := h.param
  geometry := ⟨fun hc => absurd hc Bool.false_ne_true, fun _ => ⟨rfl, rfl, rfl⟩⟩
  packer := ⟨by simp, ⟨0, rfl⟩, by simp, by simp⟩
  unpacker := ⟨by simp, by simp, by simp, by simp, by simp, by simp, 0, rfl⟩
  buffers := by simp [State.BufferInv]
  results := by simp [State.ResultInv]

/-- Setting a geometry that fits on cleared buffers. -/
theorem config (h : s.Inv) {w k : BitVec 16} (hw : w.toNat ≠ 0) (hk : k.toNat ≠ 0)
    (hn : w.toNat * k.toNat ≤ s.maxN) :
    State.Inv { s.clear with w := w.toNat, h := k.toNat, n := w.toNat * k.toNat, cfg := true } :=
  have hgeometry : State.GeometryInv
      { s.clear with w := w.toNat, h := k.toNat, n := w.toNat * k.toNat, cfg := true } :=
    ⟨fun _ => ⟨Nat.pos_of_ne_zero hw, Nat.le_of_lt_succ w.isLt, Nat.pos_of_ne_zero hk,
        Nat.le_of_lt_succ k.isLt, rfl, hn⟩,
      fun hc => absurd hc.symm Bool.false_ne_true⟩
  { h.clear with geometry := hgeometry, buffers := by simp [State.BufferInv] }

theorem cinit (h : s.Inv) (hc : s.cfg = true) :
    State.Inv
      { s with
        cprev := Memory.fill s.cprev (fun _ => 0) (s.h * s.w)
        cwidth := 0, csize := 0, minPix := 0xFFFF, maxPix := 0x0000 } :=
  have ⟨hobuf, hibuf, hfin, ⟨hwf, hbelow⟩, hdprev, hfout⟩ := h.buffers
  have ⟨_, _, _, _, hcode⟩ := h.results
  { h with
    buffers := ⟨hobuf, hibuf, hfin, ⟨Memory.wf_fill _ _ hwf,
      Memory.below_fill _ hbelow (h.frame_cells hc).le⟩, hdprev, hfout⟩
    results := ⟨by simp, by simp, by simp, by simp, hcode⟩ }

theorem dinit (h : s.Inv) (hc : s.cfg = true) :
    State.Inv { s with dprev := Memory.fill s.dprev (fun _ => 0) (s.h * s.w) } :=
  have ⟨hobuf, hibuf, hfin, hcprev, ⟨hwf, hbelow⟩, hfout⟩ := h.buffers
  { h with
    buffers := ⟨hobuf, hibuf, hfin, hcprev, ⟨Memory.wf_fill _ _ hwf,
      Memory.below_fill _ hbelow (h.frame_cells hc).le⟩, hfout⟩ }

/-- A pixel in range lies within the frame. -/
theorem raster_lt (h : s.Inv) (hc : s.cfg = true) {y x : BitVec 16} (hyx : s.pixelInRange y x = true) :
    raster s.w y.toNat x.toNat < s.n := by
  simp only [State.pixelInRange, Bool.and_eq_true, decide_eq_true_eq] at hyx
  obtain ⟨hy, hx⟩ := hyx
  calc y.toNat * s.w + x.toNat < (y.toNat + 1) * s.w := by rw [Nat.succ_mul]; omega
    _ ≤ s.h * s.w := Nat.mul_le_mul_right _ hy
    _ = s.n := h.frame_cells hc

theorem wrpix (h : s.Inv) (hc : s.cfg = true) {y x : BitVec 16} (hyx : s.pixelInRange y x = true) (v : Pixel) :
    State.Inv { s with fin := Memory.write s.fin (raster s.w y.toNat x.toNat) v } :=
  have ⟨hobuf, hibuf, ⟨hwf, hbelow⟩, hrest⟩ := h.buffers
  { h with
    buffers := ⟨hobuf, hibuf, ⟨Memory.wf_write _ _ hwf, Memory.below_write _ hbelow (h.raster_lt hc hyx)⟩, hrest⟩ }

theorem wrib (h : s.Inv) {j : Nat} (hj : j < s.bufcap) (b : Byte) :
    State.Inv { s with ibuf := Memory.write s.ibuf j b } :=
  have ⟨hobuf, ⟨hwf, hbelow⟩, hrest⟩ := h.buffers
  { h with buffers := ⟨hobuf, ⟨Memory.wf_write _ _ hwf, Memory.below_write _ hbelow hj⟩, hrest⟩ }

theorem pkinit (h : s.Inv) {w : Nat} (hw : w ≤ 32) : (State.pkInit { s with olen := 0 } w).Inv :=
  { h with packer := ⟨hw, ⟨0, by simp⟩, Nat.zero_mod _, Nat.zero_le _⟩ }

theorem pkpush (h : s.Inv) (v : Int) (hfit : s.olen + s.pushBytes ≤ s.bufcap) : (s.pkPush v).Inv := by
  have hready := h.packerReady.pkPush v hfit
  have hbits := h.packerReady.pkPush_bits v
  have hcount := hready.count
  obtain ⟨-, ⟨k, hk⟩, -, -⟩ := h.packer
  obtain ⟨-, hrest⟩ := h.buffers
  have hpacker : (s.pkPush v).PackerInv := by
    refine ⟨hready.width, ⟨k + 1, ?_⟩, hready.zeros, ?_⟩
    · rw [pkPush_pkCnt, pkPush_pkW, hk, Nat.succ_mul, Nat.mod_add_mod]
    · rw [pkPush_bufcap]
      unfold State.pushBytes at hfit
      omega
  have hbuffers : (s.pkPush v).BufferInv := by
    refine ⟨⟨hready.wf, hready.below⟩, ?_⟩
    rw [pkPush_frame]
    exact hrest
  rw [pkPush_frame] at hpacker hbuffers ⊢
  exact { h with packer := hpacker, buffers := hbuffers }

theorem pkflush (h : s.Inv) (hfit : s.olen + s.flushBytes ≤ s.bufcap) : s.pkFlush.Inv := by
  obtain ⟨hready, holen⟩ := h.packerReady.pkFlush hfit
  obtain ⟨-, hrest⟩ := h.buffers
  have hpacker : s.pkFlush.PackerInv :=
    ⟨hready.width, ⟨0, by simp⟩, hready.zeros, by rw [holen, pkFlush_bufcap]; exact hfit⟩
  have hbuffers : s.pkFlush.BufferInv := by
    refine ⟨⟨hready.wf, hready.below⟩, ?_⟩
    rw [pkFlush_frame]
    exact hrest
  rw [pkFlush_frame] at hpacker hbuffers ⊢
  exact { h with packer := hpacker, buffers := hbuffers }

theorem upinit (h : s.Inv) {w size : Nat} (hw : w ≤ 32) (hs : size ≤ s.bufcap) :
    (State.upInit { s with ilen := size, iptr := 0 } w).Inv :=
  { h with unpacker := ⟨hw, by simp, by simp, Nat.zero_mod _, Nat.zero_le _, hs, 0, by simp⟩ }

theorem uppop (h : s.Inv) (ho : s.upW ≠ 0) : s.upPop.2.Inv := by
  have hunpacker := h.unpacker.upPop ho
  rw [upPop_frame] at hunpacker ⊢
  exact { h with unpacker := hunpacker }

/-- A closed unpacker anywhere in a stream that fits. -/
theorem upClose_at (h : s.Inv) {k cnt size ptr : Nat} {acc : Acc} (hptr : ptr ≤ size) (hs : size ≤ s.bufcap) :
    (State.upClose { s with upW := k, upAcc := acc, upCnt := cnt, ilen := size, iptr := ptr }).Inv :=
  { h with unpacker := ⟨Nat.zero_le _, by simp, by simp, Nat.zero_mod _, hptr, hs, 0, by simp⟩ }

theorem decompressEnd (h : s.Inv) (w : Nat) {size : Nat} (h4 : 4 ≤ size) (hs : size ≤ s.bufcap) :
    (s.decoded w size).2.upClose.Inv := by
  have hptr := decoded_iptr_le s w h4
  rw [decoded_frame]
  exact h.upClose_at hptr hs

theorem placeFrame (h : s.Inv) (hc : s.cfg = true) (D : List Int) : (s.placeFrame D).Inv :=
  have ⟨hobuf, hibuf, hfin, hcprev, ⟨hdwf, hdbelow⟩, ⟨hfwf, hfbelow⟩⟩ := h.buffers
  have hcells := (h.frame_cells hc).le
  { h with
    buffers := ⟨hobuf, hibuf, hfin, hcprev, ⟨Memory.wf_fill _ _ hdwf, Memory.below_fill _ hdbelow hcells⟩,
      ⟨Memory.wf_fill _ _ hfwf, Memory.below_fill _ hfbelow hcells⟩⟩ }

/-- The payload fits `OBUF`: with a width of at most 18 it takes at most 4 bytes a pixel. -/
theorem payload_fits (h : s.Inv) (hc : s.cfg = true) :
    4 + bytesFor ((adjacent s.deltas).length * s.frameWidth) ≤ s.bufcap := by
  obtain ⟨hw, -, hh, -, hn, hmax⟩ := h.geometry_of_cfg hc
  have hpos : 1 ≤ s.n := by rw [hn]; exact Nat.mul_pos hw hh
  have hlen : (adjacent s.deltas).length = s.n - 1 := by simp [length_adjacent, State.deltas]
  have hbits := Nat.mul_le_mul_left (s.n - 1) (frameWidth_bounds s).2
  rw [hlen]
  unfold bytesFor State.bufcap
  omega

theorem compress (h : s.Inv) (hc : s.cfg = true) : s.compressed.Inv := by
  obtain ⟨⟨howf, hobelow⟩, hibuf, hfin, ⟨hcwf, hcbelow⟩, hrest⟩ := h.buffers
  obtain ⟨-, -, -, -, hcode⟩ := h.results
  obtain ⟨hw1, hw18⟩ := frameWidth_bounds s
  have hfits := h.payload_fits hc
  obtain ⟨hwf, hbelow, holen⟩ :=
    emitPayload_buffer (s := s.updateCprev) (s.deltas.headD 0) (adjacent s.deltas) (w := s.frameWidth)
      howf hobelow (by omega) hfits
  have hcap : s.compressed.olen ≤ s.bufcap := holen.trans_le hfits
  have hobuf : s.compressed.obuf.wf = true ∧ s.compressed.obuf.below s.bufcap = true := ⟨hwf, hbelow⟩
  rw [compressed_frame]
  exact
    { h with
      packer := ⟨Nat.zero_le _, ⟨0, by simp⟩, Nat.zero_mod _, hcap⟩
      buffers := ⟨hobuf, hibuf, hfin, ⟨Memory.wf_fill _ _ hcwf,
        Memory.below_fill _ hcbelow (h.frame_cells hc).le⟩, hrest⟩
      results := ⟨hw18, hcap, fun h0 => by simp only at h0; omega, extremes_ordered _, hcode⟩ }

end State.Inv

/-! ### Every command, every step -/

/-- Every effect of a command keeps the invariant. -/
theorem Effect.keeps_inv {s u : State} {i : Instr} {e : Err} (heff : Effect s i e u) (h : s.Inv) : u.Inv := by
  cases heff with
  | refused => exact h
  | reset => exact h.clear
  | config hw hh hn => exact h.config hw hh hn
  | cinit hc => exact h.cinit hc
  | dinit hc => exact h.dinit hc
  | rdreg => exact h
  | wrpix hc hyx => exact h.wrpix hc hyx _
  | rdpix => exact h
  | wrib hj => exact h.wrib hj _
  | rdob => exact h
  | pkinit hw => exact h.pkinit ((widthLegal_iff _).1 hw).2
  | pkpush _ hfit => exact h.pkpush _ hfit
  | pkflush _ hfit => exact h.pkflush hfit
  | upinit hw hs => exact h.upinit ((widthLegal_iff _).1 hw).2 hs
  | uppopValue ho => exact h.uppop ho
  | uppopEnd ho => exact h.uppop ho
  | compress hc => exact h.compress hc
  | decompressTooShort _ _ hs => exact h.upClose_at le_rfl hs
  | decompressEnd _ _ hs h4 => exact h.decompressEnd _ h4 hs
  | @decompressFrame w size ds hc _ hs h4 _ =>
    have hcfg : (s.decoded w.toNat size.toNat).2.upClose.cfg = true := by rw [decoded_frame]; exact hc
    exact (h.decompressEnd _ h4 hs).placeFrame hcfg (s.firstDelta :: ds)

/-- Every command keeps the invariant. -/
theorem exec_keeps_inv {i : Instr} {s t : State} (h : s.Inv) (hexec : exec i s = .next t) : t.Inv := by
  obtain ⟨u, e, aux, val, rfl, -, heff⟩ := exec_inversion hexec
  exact (heff.keeps_inv h).respond e aux val

/-- One input of the host: a command, an illegal word, or the reset input. -/
theorem runInput_keeps_inv {e : HostInput} {s t : State} (h : s.Inv) (hrun : runInput e s = .next t) : t.Inv := by
  cases e with
  | resetInput =>
    obtain rfl := Host.Outcome.next.inj hrun
    exact h.clear
  | command c =>
    rw [runInput, runCommand] at hrun
    split at hrun
    · obtain rfl := Host.Outcome.next.inj hrun
      exact h.respond .illegalCommand 0 0
    · exact exec_keeps_inv h hrun

/-- Settles O18: every effect of a command keeps the invariant, and the response, the reset input and the idle
step do. -/
theorem stepKeepsTheInvariant : Obligations.StepKeepsTheInvariant := by
  intro s t h hstep
  rw [step, stepInput] at hstep
  split at hstep
  · obtain rfl := Host.Outcome.next.inj hstep
    exact h
  · exact runInput_keeps_inv (h.setInputs _) hstep

end Sys2Proof.Machine

/-! `RDREG` returns the register of the table of spec/10_state.md R32: each packed word of fields, read as a
number. -/

namespace Sys2Proof.Machine

open Sys2Proof.Claims

/-- A bit vector put above another one is that many powers of two more. -/
theorem toNat_append_eq_add {m k : Nat} (x : BitVec m) (y : BitVec k) :
    (x ++ y).toNat = x.toNat * 2 ^ k + y.toNat := by
  rw [BitVec.toNat_append, ← Nat.shiftLeft_add_eq_or_of_lt y.isLt, Nat.shiftLeft_eq]

section
variable {s : State}

theorem statusReg_toNat (s : State) : s.statusReg.toNat = registerNumber s 1 := by
  have hpk : (BitVec.ofBool s.pkOpen).toNat = if s.pkW ≠ 0 then 1 else 0 := by
    unfold State.pkOpen; split <;> simp_all
  have hup : (BitVec.ofBool s.upOpen).toNat = if s.upW ≠ 0 then 1 else 0 := by
    unfold State.upOpen; split <;> simp_all
  unfold State.statusReg
  simp only [toNat_append_eq_add, hpk, hup, BitVec.toNat_ofBool, BitVec.toNat_ofNat, registerNumber]
  omega

theorem dimReg_toNat (hw : s.w < 2 ^ 16) (hh : s.h < 2 ^ 16) : s.dimReg.toNat = registerNumber s 2 := by
  unfold State.dimReg
  simp only [toNat_append_eq_add, BitVec.toNat_ofNat, registerNumber]
  omega

theorem cwidthReg_toNat (hc : s.cwidth < 2 ^ 8) : s.cwidthReg.toNat = registerNumber s 4 := by
  unfold State.cwidthReg
  simp only [toNat_append_eq_add, BitVec.toNat_ofNat, registerNumber]
  omega

theorem extremesReg_toNat (s : State) : s.extremesReg.toNat = registerNumber s 6 := by
  unfold State.extremesReg
  simp only [toNat_append_eq_add, registerNumber]
  omega

theorem streamStatReg_toNat {width cnt : Nat} (hw : width < 2 ^ 6) (hc : cnt < 2 ^ 6) :
    (streamStatReg width cnt).toNat = width + 256 * cnt := by
  unfold streamStatReg
  simp only [toNat_append_eq_add, BitVec.toNat_ofNat]
  omega

theorem maxNReg_toNat (s : State) : s.maxNReg.toNat = registerNumber s 12 := by
  unfold State.maxNReg count32
  simp only [BitVec.toNat_ofNat, registerNumber]
  omega

/-- A count that the 32 bits can hold is shown as it is. -/
theorem count32_toNat {m : Nat} (h : m < 2 ^ 32) : (count32 m).toNat = m := by
  rw [count32, BitVec.toNat_ofNat, Nat.mod_eq_of_lt h]

/-- The geometry, configured or not, fits its registers. -/
theorem State.Inv.geometry_lt (h : s.Inv) : s.w < 2 ^ 16 ∧ s.h < 2 ^ 16 ∧ s.n < 2 ^ 32 := by
  obtain ⟨hset, hunset⟩ := h.geometry
  obtain ⟨-, hmax⟩ := h.param
  unfold Config.maxNLimit at hmax
  cases hc : s.cfg with
  | true => obtain ⟨-, hw, -, hh, -, hn⟩ := hset hc; omega
  | false => obtain ⟨hw, hh, hn⟩ := hunset hc; omega

/-- The registers hold the numbers of the table. -/
theorem State.Inv.statusRegister_eq (h : s.Inv) {n : Nat} (hn : n ≤ 12) (hcsize : n = 5 → s.csize < 2 ^ 32) :
    ∃ val, s.statusRegister n = some val ∧ val.toNat = registerNumber s n := by
  obtain ⟨hw, hh, hN⟩ := h.geometry_lt
  obtain ⟨hcwidth, -⟩ := h.results
  obtain ⟨hupW, hupCnt, -⟩ := h.unpacker
  have hpkW := h.packerReady.width
  have hpkCnt := h.packerReady.count
  match n, hn, hcsize with
  | 0, _, _ => exact ⟨_, rfl, rfl⟩
  | 1, _, _ => exact ⟨_, rfl, statusReg_toNat s⟩
  | 2, _, _ => exact ⟨_, rfl, dimReg_toNat hw hh⟩
  | 3, _, _ => exact ⟨_, rfl, count32_toNat hN⟩
  | 4, _, _ => exact ⟨_, rfl, cwidthReg_toNat (by omega)⟩
  | 5, _, hcsize => exact ⟨_, rfl, count32_toNat (hcsize rfl)⟩
  | 6, _, _ => exact ⟨_, rfl, extremesReg_toNat s⟩
  | 7, _, _ => exact ⟨_, rfl, streamStatReg_toNat (by omega) (by omega)⟩
  | 8, _, _ => exact ⟨_, rfl, BitVec.toNat_ofNat _ _⟩
  | 9, _, _ => exact ⟨_, rfl, streamStatReg_toNat (by omega) (by omega)⟩
  | 10, _, _ => exact ⟨_, rfl, BitVec.toNat_ofNat _ _⟩
  | 11, _, _ => exact ⟨_, rfl, BitVec.toNat_ofNat _ _⟩
  | 12, _, _ => exact ⟨_, rfl, maxNReg_toNat s⟩
  | n + 13, hn, _ => omega

end

/-- Settles O30: the command ends with the register's word, taken from the state before it. -/
theorem rdregReturnsTheRegister : Obligations.RdregReturnsTheRegister := by
  intro s j h hj hcsize
  obtain ⟨val, hval, hnum⟩ := h.statusRegister_eq hj hcsize
  have hexec : exec (.rdreg j) s = finish 0 val s := by
    change execRdreg j s = _
    rw [execRdreg, hval]
  exact ⟨s.respond .ok 0 val, val, hexec, hnum, rfl⟩

end Sys2Proof.Machine

/-! `LASTERR` gates nothing: setting it goes through every procedure of the engine unseen, up to the response
that overwrites it. -/

namespace Sys2Proof.Machine

/-- `LASTERR <- e`, as a state that differs in nothing else (spec/10_state.md R29). -/
def State.setErr (s : State) (e : BitVec 8) : State := { s with lastErr := e }

section
variable (s : State) (e : BitVec 8)

/-! ### The packer -/

theorem emitAll_setErr (bs : List Byte) : (s.setErr e).emitAll bs = (s.emitAll bs).setErr e := by
  induction bs generalizing s with
  | nil => rfl
  | cons b bs ih => exact ih (s.emit b)

theorem pkDrain_setErr (fuel : Nat) : State.pkDrain fuel (s.setErr e) = (State.pkDrain fuel s).setErr e := by
  induction fuel generalizing s with
  | zero => rfl
  | succ fuel ih =>
    rw [State.pkDrain, State.pkDrain]
    change (if 8 ≤ s.pkCnt then State.pkDrain fuel (s.pkShiftByte.setErr e) else s.setErr e) = _
    split
    · exact ih s.pkShiftByte
    · rfl

theorem pkPush_setErr (v : Int) : (s.setErr e).pkPush v = (s.pkPush v).setErr e :=
  pkDrain_setErr (s.pkPlace v) e (s.pkCnt + s.pkW)

theorem pkPushAll_setErr (vs : List Int) : (s.setErr e).pkPushAll vs = (s.pkPushAll vs).setErr e := by
  induction vs generalizing s with
  | nil => rfl
  | cons v vs ih => rw [State.pkPushAll, pkPush_setErr, ih, State.pkPushAll]

theorem pkFlush_setErr : (s.setErr e).pkFlush = s.pkFlush.setErr e := by
  by_cases h : 0 < s.pkCnt
  · simp [State.pkFlush, State.setErr, h, State.emit, State.pkTop]
  · simp [State.pkFlush, State.setErr, h]

/-! ### The unpacker -/

theorem upFetch_setErr (fuel : Nat) :
    State.upFetch fuel (s.setErr e) = ((State.upFetch fuel s).1, (State.upFetch fuel s).2.setErr e) := by
  induction fuel generalizing s with
  | zero => rfl
  | succ fuel ih =>
    rw [State.upFetch, State.upFetch]
    change (if s.upW ≤ s.upCnt then (true, s.setErr e)
      else if s.iptr = s.ilen then (false, s.setErr e)
      else State.upFetch fuel (s.upTakeByte.setErr e)) = _
    split
    · rfl
    · split
      · rfl
      · exact ih s.upTakeByte

theorem upPop_setErr : (s.setErr e).upPop = (s.upPop.1, s.upPop.2.setErr e) := by
  have hfetch : State.upFetch (s.setErr e).upW (s.setErr e) = _ := upFetch_setErr s e s.upW
  rw [State.upPop, State.upPop, hfetch]
  rcases State.upFetch s.upW s with ⟨_ | _, t⟩ <;> rfl

theorem popDeltas_setErr (k : Nat) (d : Int) :
    State.popDeltas k d (s.setErr e) = ((State.popDeltas k d s).1, (State.popDeltas k d s).2.setErr e) := by
  induction k generalizing d s with
  | zero => rfl
  | succ k ih =>
    rw [State.popDeltas, State.popDeltas, upPop_setErr]
    rcases s.upPop with ⟨_ | a, t⟩
    · rfl
    · simp only [ih]

/-! ### The codec -/

theorem emitPayload_setErr (d0 : Int) (a : List Int) (w : Nat) :
    (s.setErr e).emitPayload d0 a w = (s.emitPayload d0 a w).setErr e := by
  have hfirst : State.emitAll { s.setErr e with olen := 0 } (le32 d0) =
      (State.emitAll { s with olen := 0 } (le32 d0)).setErr e := emitAll_setErr { s with olen := 0 } e (le32 d0)
  have hopen (t : State) : (t.setErr e).pkInit w = (t.pkInit w).setErr e := rfl
  rw [State.emitPayload, State.emitPayload, hfirst, hopen, pkPushAll_setErr, pkFlush_setErr]

theorem compressed_setErr : (s.setErr e).compressed = s.compressed.setErr e := by
  have hpayload : (s.setErr e).updateCprev.emitPayload = fun d0 a w =>
      (s.updateCprev.emitPayload d0 a w).setErr e := by
    funext d0 a w
    exact emitPayload_setErr s.updateCprev e d0 a w
  rw [State.compressed, hpayload]
  rfl

/-! ### The commands that run a loop -/

theorem execPkpush_setErr (v : Value) : execPkpush v (s.setErr e) = execPkpush v s := by
  rw [execPkpush, pkPush_setErr]
  rfl

theorem execPkflush_setErr : execPkflush (s.setErr e) = execPkflush s := by
  rw [execPkflush, pkFlush_setErr]
  rfl

theorem execUppop_setErr : execUppop (s.setErr e) = execUppop s := by
  rw [execUppop, execUppop, upPop_setErr]
  rcases s.upPop with ⟨_ | v, t⟩ <;> rfl

theorem execCompress_setErr : execCompress (s.setErr e) = execCompress s := by
  rw [execCompress, compressed_setErr]
  rfl

theorem execDecompress_setErr (w : BitVec 8) (size : Value) :
    execDecompress w size (s.setErr e) = execDecompress w size s := by
  have hdeltas : State.popDeltas ((s.setErr e).n - 1) (s.setErr e).firstDelta
      (State.upInit { s.setErr e with ilen := size.toNat, iptr := 4 } w.toNat) = _ :=
    popDeltas_setErr (State.upInit { s with ilen := size.toNat, iptr := 4 } w.toNat) e (s.n - 1) s.firstDelta
  rw [execDecompress, execDecompress, hdeltas]
  rcases State.popDeltas (s.n - 1) s.firstDelta
    (State.upInit { s with ilen := size.toNat, iptr := 4 } w.toNat) with ⟨_ | ds, t⟩ <;> rfl

/-- Register 1 is the only one that shows `LASTERR`. -/
theorem statusRegister_setErr {n : Nat} (hn : n ≠ 1) : (s.setErr e).statusRegister n = s.statusRegister n := by
  unfold State.statusRegister
  split
  case h_2 => exact absurd rfl hn
  all_goals rfl

end

/-- Settles O21: the loops carry `LASTERR` along unread, the other commands do not look at it at all. -/
theorem lasterrGatesNothing : Obligations.LasterrGatesNothing := by
  intro i s e hi
  change exec i (s.setErr e) = exec i s
  cases i with
  | rdreg n =>
    have hn : n.toNat ≠ 1 := fun h => hi (by rw [BitVec.eq_of_toNat_eq (x := n) (y := 1) h])
    change execRdreg n (s.setErr e) = execRdreg n s
    rw [execRdreg, execRdreg, statusRegister_setErr s e hn]
    rfl
  | pkpush v => exact execPkpush_setErr s e v
  | pkflush => exact execPkflush_setErr s e
  | uppop => exact execUppop_setErr s e
  | compress => exact execCompress_setErr s e
  | decompress w size => exact execDecompress_setErr s e w size
  | reset | config | cinit | dinit | wrpix | rdpix | wrib | rdob | pkinit | upinit => rfl

end Sys2Proof.Machine

/-! Snake order (spec/20_memory.md R40, R41). An odd row runs from right to left, so both `snake` and `unsnake` are
the raster order with the columns of odd rows mirrored, and mirroring a row twice gives the row back. -/

namespace Sys2Proof.Machine

/-- The column of row `y` at place `x` of the snake's walk along it: place `x` itself in an even row, its mirror
image in an odd one. -/
def snakeColumn (w y x : Nat) : Nat := if y % 2 = 0 then x else w - 1 - x

theorem snakeColumn_of_even {w y x : Nat} (hy : y % 2 = 0) : snakeColumn w y x = x := if_pos hy

theorem snakeColumn_of_odd {w y x : Nat} (hy : y % 2 ≠ 0) : snakeColumn w y x = w - 1 - x := if_neg hy

theorem snakeColumn_lt {w x : Nat} (y : Nat) (hx : x < w) : snakeColumn w y x < w := by
  unfold snakeColumn
  split <;> omega

/-- Mirroring twice gives the column back. -/
theorem snakeColumn_snakeColumn {w x : Nat} (y : Nat) (hx : x < w) : snakeColumn w y (snakeColumn w y x) = x := by
  by_cases hy : y % 2 = 0
  · rw [snakeColumn_of_even hy, snakeColumn_of_even hy]
  · rw [snakeColumn_of_odd hy, snakeColumn_of_odd hy]
    omega

/-- One place further in a row is one column to the right or one to the left. -/
theorem snakeColumn_succ {w x : Nat} (y : Nat) (hx : x + 1 < w) :
    snakeColumn w y x + 1 = snakeColumn w y (x + 1) ∨ snakeColumn w y (x + 1) + 1 = snakeColumn w y x := by
  by_cases hy : y % 2 = 0
  · exact .inl (by rw [snakeColumn_of_even hy, snakeColumn_of_even hy])
  · exact .inr (by rw [snakeColumn_of_odd hy, snakeColumn_of_odd hy]; omega)

/-- The walk enters the next row in the column where it leaves this one: consecutive rows run in opposite
directions. -/
theorem snakeColumn_turn (w y : Nat) : snakeColumn w y (w - 1) = snakeColumn w (y + 1) 0 := by
  by_cases hy : y % 2 = 0
  · rw [snakeColumn_of_even hy, snakeColumn_of_odd (by omega), Nat.sub_zero]
  · rw [snakeColumn_of_odd hy, snakeColumn_of_even (by omega), Nat.sub_self]

/-! ### The two maps -/

theorem snake_eq (w y x : Nat) : snake w y x = y * w + snakeColumn w y x := by
  unfold snake snakeColumn
  split <;> rfl

theorem unsnake_eq (w i : Nat) : unsnake w i = (i / w, snakeColumn w (i / w) (i % w)) := by
  unfold unsnake snakeColumn
  split <;> rfl

/-- The pixel at place `c` of row `y` of the walk. -/
theorem unsnake_mul_add {w c : Nat} (y : Nat) (hc : c < w) : unsnake w (y * w + c) = (y, snakeColumn w y c) := by
  obtain ⟨hrow, hplace⟩ : (y * w + c) / w = y ∧ (y * w + c) % w = c :=
    (Nat.div_mod_unique (Nat.zero_lt_of_lt hc)).2 ⟨by rw [Nat.mul_comm, Nat.add_comm], hc⟩
  rw [unsnake_eq, hrow, hplace]

theorem snake_lt {w h y x : Nat} (hy : y < h) (hx : x < w) : snake w y x < w * h :=
  calc snake w y x = y * w + snakeColumn w y x := snake_eq w y x
    _ < y * w + w := Nat.add_lt_add_left (snakeColumn_lt y hx) _
    _ = (y + 1) * w := (Nat.succ_mul y w).symm
    _ ≤ h * w := Nat.mul_le_mul_right w hy
    _ = w * h := Nat.mul_comm h w

theorem unsnake_snake {w x : Nat} (y : Nat) (hx : x < w) : unsnake w (snake w y x) = (y, x) := by
  rw [snake_eq, unsnake_mul_add y (snakeColumn_lt y hx), snakeColumn_snakeColumn y hx]

theorem unsnake_fst_lt {w h i : Nat} (hi : i < w * h) : (unsnake w i).1 < h := by
  rw [unsnake_eq]
  exact Nat.div_lt_of_lt_mul hi

theorem unsnake_snd_lt {w : Nat} (i : Nat) (hw : 0 < w) : (unsnake w i).2 < w := by
  rw [unsnake_eq]
  exact snakeColumn_lt _ (Nat.mod_lt i hw)

theorem snake_unsnake {w : Nat} (i : Nat) (hw : 0 < w) : snake w (unsnake w i).1 (unsnake w i).2 = i := by
  rw [unsnake_eq, snake_eq, snakeColumn_snakeColumn _ (Nat.mod_lt i hw), Nat.mul_comm, Nat.div_add_mod]

/-- `q` is beside `p` in the same row, or directly below it. -/
def SnakeNeighbours (p q : Nat × Nat) : Prop :=
  (p.1 = q.1 ∧ (p.2 + 1 = q.2 ∨ q.2 + 1 = p.2)) ∨ (p.1 + 1 = q.1 ∧ p.2 = q.2)

/-- Consecutive indices: either the row goes on, or the walk turns into the row below. -/
theorem unsnake_succ_neighbours {w : Nat} (i : Nat) (hw : 0 < w) :
    SnakeNeighbours (unsnake w i) (unsnake w (i + 1)) := by
  obtain ⟨y, c, hc, rfl⟩ : ∃ y c, c < w ∧ i = y * w + c :=
    ⟨i / w, i % w, Nat.mod_lt i hw, (Nat.div_add_mod' i w).symm⟩
  rw [unsnake_mul_add y hc]
  by_cases hlast : c + 1 < w
  · rw [Nat.add_assoc, unsnake_mul_add y hlast]
    exact .inl ⟨rfl, snakeColumn_succ y hlast⟩
  · obtain rfl : c = w - 1 := by omega
    have hnext : y * w + (w - 1) + 1 = (y + 1) * w + 0 := by rw [Nat.succ_mul]; omega
    rw [hnext, unsnake_mul_add (y + 1) hw]
    exact .inr ⟨rfl, snakeColumn_turn w y⟩

/-- Settles O11: the two maps are inverse to each other because the mirror of a row is its own inverse, and the walk
never jumps because the mirrored and the plain rows alternate. -/
theorem snakeIsABijectionOfNeighbours : Obligations.SnakeIsABijectionOfNeighbours := by
  intro w h hw
  exact ⟨fun y _ hy hx => ⟨snake_lt hy hx, unsnake_snake y hx⟩,
    fun i hi => ⟨unsnake_fst_lt hi, unsnake_snd_lt i hw, snake_unsnake i hw⟩,
    fun i _ => unsnake_succ_neighbours i hw⟩

end Sys2Proof.Machine

/-! The decoder and the encoder (spec/30_encoding.md R62 to R67): what `decode` accepts, that a legal word and its
command determine each other, and that the legal words are those of the opcode table's masks. -/

namespace Sys2Proof

/-! ### What the decoder accepts -/

/-- A word decodes to the command assembled from its fields when its opcode is assigned and the must-be-zero fields
of the opcode's format are 0. -/
theorem decode_eq_ok_iff {c : Word} {i : Instr} :
    decode c = .ok i ↔
      ∃ f, formatOf (cmdOp c).toNat = some f ∧ f.mustBeZeroOk c = true ∧ assemble (cmdOp c).toNat c = some i := by
  unfold decode
  split
  next f j hf hj => by_cases hz : f.mustBeZeroOk c = true <;> simp [hf, hj, hz]
  next hnone =>
    exact ⟨fun h => by simp at h, fun ⟨f, hf, _, hi⟩ => (hnone f i hf hi).elim⟩

/-- Every opcode with a format has a command. -/
theorem assemble_of_formatOf {op : Nat} {f : Format} (hf : formatOf op = some f) (c : Word) :
    ∃ i, assemble op c = some i := by
  unfold formatOf at hf
  split at hf
  case h_17 => cases hf
  all_goals exact ⟨_, rfl⟩

theorem exists_decode_iff {c : Word} :
    (∃ i, decode c = .ok i) ↔ ∃ f, formatOf (cmdOp c).toNat = some f ∧ f.mustBeZeroOk c = true := by
  constructor
  · rintro ⟨i, h⟩
    obtain ⟨f, hf, hz, -⟩ := decode_eq_ok_iff.1 h
    exact ⟨f, hf, hz⟩
  · rintro ⟨f, hf, hz⟩
    obtain ⟨i, hi⟩ := assemble_of_formatOf hf c
    exact ⟨i, decode_eq_ok_iff.2 ⟨f, hf, hz, hi⟩⟩

/-! ### From a command to its word and back -/

/-- The word of every command is legal. -/
theorem legalWord_encode (i : Instr) : Laws.LegalWord.Statement i := by
  cases i with
  | reset => exact Laws.LegalWord.reset
  | config w h => exact Laws.LegalWord.config w h
  | cinit => exact Laws.LegalWord.cinit
  | dinit => exact Laws.LegalWord.dinit
  | rdreg n => exact Laws.LegalWord.rdreg n
  | wrpix y x v => exact Laws.LegalWord.wrpix y x v
  | rdpix sel y x => exact Laws.LegalWord.rdpix sel y x
  | wrib j b => exact Laws.LegalWord.wrib j b
  | rdob j => exact Laws.LegalWord.rdob j
  | pkinit w => exact Laws.LegalWord.pkinit w
  | pkpush v => exact Laws.LegalWord.pkpush v
  | pkflush => exact Laws.LegalWord.pkflush
  | upinit w size => exact Laws.LegalWord.upinit w size
  | uppop => exact Laws.LegalWord.uppop
  | compress => exact Laws.LegalWord.compress
  | decompress w size => exact Laws.LegalWord.decompress w size

/-- Assembling the fields of a command's word gives the command. -/
theorem assemble_encode (i : Instr) : assemble (cmdOp (encode i)).toNat (encode i) = some i := by
  cases i with
  | reset | cinit | dinit | pkflush | uppop | compress => rfl
  | config w h => rw [encode, cmdOp_pair]; simp [assemble, cmdHi_pair, cmdLo_pair]
  | wrpix y x v => rw [encode, cmdOp_pair]; simp [assemble, cmdA_pair, cmdHi_pair, cmdLo_pair]
  | rdpix sel y x => rw [encode, cmdOp_pair]; simp [assemble, cmdB_pair, cmdHi_pair, cmdLo_pair]
  | rdreg n | rdob n | pkpush n => rw [encode, cmdOp_cmdWord]; simp [assemble, cmdC_cmdWord]
  | wrib n b | upinit b n | decompress b n =>
    rw [encode, cmdOp_cmdWord]; simp [assemble, cmdB_cmdWord, cmdC_cmdWord]
  | pkinit w => rw [encode, cmdOp_cmdWord]; simp [assemble, cmdB_cmdWord]

/-- The word with its must-be-zero fields put to 0, by the table of R63. -/
def Format.cleared (c : Word) : Format → Word
  | .Z => cmdWord (cmdOp c) 0 0 0
  | .W => cmdWord (cmdOp c) 0 (cmdB c) 0
  | .WS | .BA => cmdWord (cmdOp c) 0 (cmdB c) (cmdC c)
  | .V => cmdWord (cmdOp c) 0 0 (cmdC c)
  | .G => cmdWordPair (cmdOp c) 0 0 (cmdHi c) (cmdLo c)
  | .SP => cmdWordPair (cmdOp c) 0 (cmdB c) (cmdHi c) (cmdLo c)
  | .PX => cmdWordPair (cmdOp c) (cmdA c) 0 (cmdHi c) (cmdLo c)

theorem Format.cleared_eq_self {f : Format} {c : Word} (hz : f.mustBeZeroOk c = true) : f.cleared c = c := by
  conv_rhs => rw [← cmdWord_fields c]
  cases f <;> simp_all [Format.mustBeZeroOk, Format.cleared, cmdWordPair, cmdC_pair_fields]

/-- The encoder writes the opcode and the operand fields of the format, and 0 elsewhere. -/
theorem encode_of_assemble {c : Word} {i : Instr} {f : Format} (hf : formatOf (cmdOp c).toNat = some f)
    (hi : assemble (cmdOp c).toNat c = some i) : encode i = f.cleared c := by
  unfold assemble at hi
  split at hi
  case h_17 => cases hi
  all_goals
    next hop =>
      rw [hop] at hf
      cases hf
      cases hi
      exact congrArg (fun op => cmdWord op _ _ _) (BitVec.eq_of_toNat_eq hop.symm)

/-- Settles O1: the word of a command is legal, and its fields are the command's operands. -/
theorem decodeOfEncodeIsTheCommand : Obligations.DecodeOfEncodeIsTheCommand := by
  intro i
  obtain ⟨f, hf, hz⟩ := legalWord_encode i
  exact decode_eq_ok_iff.2 ⟨f, hf, hz, assemble_encode i⟩

/-- Settles O2: the encoder writes every field but the must-be-zero ones, which are 0 in a legal word. -/
theorem encodeOfDecodedIsTheWord : Obligations.EncodeOfDecodedIsTheWord := by
  intro c i h
  obtain ⟨f, hf, hz, hi⟩ := decode_eq_ok_iff.1 h
  rw [encode_of_assemble hf hi, Format.cleared_eq_self hz]

/-! ### The masks of the opcode table -/

theorem formatOf_eq_some_iff {op : Nat} {f : Format} : formatOf op = some f ↔ (op, f) ∈ opcodeRows := by
  constructor
  · intro h
    unfold formatOf at h
    split at h
    case h_17 => cases h
    all_goals
      cases h
      decide
  · have hrows : ∀ r ∈ opcodeRows, formatOf r.1 = some r.2 := by decide
    exact hrows (op, f)

theorem cmdWord_and (op op' : BitVec 8) (a a' : BitVec 16) (b b' : BitVec 8) (c c' : BitVec 32) :
    cmdWord op a b c &&& cmdWord op' a' b' c' = cmdWord (op &&& op') (a &&& a') (b &&& b') (c &&& c') := by
  have h16 : (op ++ a) &&& (op' ++ a') = (op &&& op') ++ (a &&& a') := BitVec.and_append
  have h8 : (op ++ a ++ b) &&& (op' ++ a' ++ b') = (op &&& op') ++ (a &&& a') ++ (b &&& b') := by
    rw [← h16]; exact BitVec.and_append
  rw [cmdWord, cmdWord, cmdWord, ← h8]
  exact BitVec.and_append

theorem cmdWord_inj {op op' : BitVec 8} {a a' : BitVec 16} {b b' : BitVec 8} {c c' : BitVec 32} :
    cmdWord op a b c = cmdWord op' a' b' c' ↔ op = op' ∧ a = a' ∧ b = b' ∧ c = c' := by
  constructor
  · intro h
    exact ⟨by simpa [cmdOp_cmdWord] using congrArg cmdOp h, by simpa [cmdA_cmdWord] using congrArg cmdA h,
      by simpa [cmdB_cmdWord] using congrArg cmdB h, by simpa [cmdC_cmdWord] using congrArg cmdC h⟩
  · rintro ⟨rfl, rfl, rfl, rfl⟩
    rfl

/-- Under a mask that keeps the whole opcode, a word is a bare opcode when its opcode is that one and the mask
keeps no 1 of the other fields. -/
theorem and_cmdWord_eq_iff (w : Word) (op : BitVec 8) (a : BitVec 16) (b : BitVec 8) (c : BitVec 32) :
    w &&& cmdWord (.allOnes 8) a b c = cmdWord op 0 0 0 ↔
      cmdOp w = op ∧ cmdA w &&& a = 0 ∧ cmdB w &&& b = 0 ∧ cmdC w &&& c = 0 := by
  conv_lhs => rw [← cmdWord_fields w, cmdWord_and, cmdWord_inj, BitVec.and_allOnes]

theorem opMatch_toNat (op : BitVec 8) : opMatch op.toNat = cmdWord op 0 0 0 := by
  apply BitVec.eq_of_toNat_eq
  have hop := op.isLt
  rw [cmdWord, Machine.toNat_append_eq_add, Machine.toNat_append_eq_add, Machine.toNat_append_eq_add, opMatch,
    BitVec.toNat_shiftLeft, BitVec.toNat_ofNat, Nat.shiftLeft_eq]
  change _ = ((op.toNat * 2 ^ 16 + 0) * 2 ^ 8 + 0) * 2 ^ 32 + 0
  omega

/-- A format's mask keeps the opcode and the must-be-zero fields (R63). -/
theorem Format.and_mask_eq_iff (f : Format) (w : Word) (op : BitVec 8) :
    w &&& f.mask = opMatch op.toNat ↔ cmdOp w = op ∧ f.mustBeZeroOk w = true := by
  rw [opMatch_toNat]
  cases f with
  | Z =>
    exact (and_cmdWord_eq_iff w op (.allOnes 16) (.allOnes 8) (.allOnes 32)).trans
      (by simp [mustBeZeroOk, and_assoc, -BitVec.reduceAllOnes])
  | W =>
    exact (and_cmdWord_eq_iff w op (.allOnes 16) 0 (.allOnes 32)).trans
      (by simp [mustBeZeroOk, -BitVec.reduceAllOnes])
  | V | G =>
    exact (and_cmdWord_eq_iff w op (.allOnes 16) (.allOnes 8) 0).trans
      (by simp [mustBeZeroOk, -BitVec.reduceAllOnes])
  | WS | BA | SP =>
    exact (and_cmdWord_eq_iff w op (.allOnes 16) 0 0).trans
      (by simp [mustBeZeroOk, -BitVec.reduceAllOnes])
  | PX =>
    exact (and_cmdWord_eq_iff w op 0 (.allOnes 8) 0).trans
      (by simp [mustBeZeroOk, -BitVec.reduceAllOnes])

theorem opcodeRows_lt : ∀ r ∈ opcodeRows, r.1 < 2 ^ 8 := by decide

/-- Settles O3: for each row, the mask and the match value say that the word has the row's opcode and zeros where
the row's format asks for them. -/
theorem legalWordsAreTheTableRows : Obligations.LegalWordsAreTheTableRows := by
  intro c
  rw [exists_decode_iff]
  constructor
  · rintro ⟨f, hf, hz⟩
    exact ⟨_, formatOf_eq_some_iff.1 hf, (f.and_mask_eq_iff c (cmdOp c)).2 ⟨rfl, hz⟩⟩
  · rintro ⟨⟨op, f⟩, hrow, hmatch⟩
    have hop : (BitVec.ofNat 8 op).toNat = op := Nat.mod_eq_of_lt (opcodeRows_lt _ hrow)
    rw [← hop] at hmatch
    obtain ⟨hc, hz⟩ := (f.and_mask_eq_iff c _).1 hmatch
    exact ⟨f, by rw [hc, hop]; exact formatOf_eq_some_iff.2 hrow, hz⟩

/-! ### Words and source lines written out -/

/-- Settles O4, word by word, by running the decoder. -/
theorem writtenWordsDecode : Obligations.WrittenWordsDecode := by
  refine ⟨?_, ?_, ?_, ?_, ?_, ?_, ?_, ?_, ?_, ?_, ?_, ?_, ?_, ?_, ?_, ?_, ?_, ?_⟩
  all_goals decide

/-- Settles O5, line by line, by running the assembler. -/
theorem assemblerExamples : Obligations.AssemblerExamples := by
  refine ⟨?_, ?_, ?_, ?_, ?_, ?_, ?_, ?_⟩
  all_goals rfl

end Sys2Proof

/-! The response word (spec/30_encoding.md R66) and the step that runs a command word (R61, R67, R68). -/

namespace Sys2Proof.Machine

/-- Settles O6: the word is its fields in a row, and each code has its number. -/
theorem responseWordIsErrAuxVal : Obligations.ResponseWordIsErrAuxVal := by
  refine ⟨fun e aux val => ?_, rfl⟩
  rw [responseWord, toNat_append_eq_add, toNat_append_eq_add, toNat_append_eq_add, BitVec.toNat_zero]
  ring

/-! ### One step -/

theorem step_of_inputs {s : State} {e : HostInput} {rest : List HostInput} (h : s.inputs = e :: rest) :
    step s = runInput e { s with inputs := rest } := by
  rw [step, stepInput, h]

theorem step_idle {s : State} (h : s.inputs = []) : step s = .next s := by
  rw [step, stepInput, h]

theorem runInput_command_of_ok {c : Word} {i : Instr} (h : decode c = .ok i) (s : State) :
    runInput (.command c) s = exec i s := by
  rw [runInput, runCommand, h]

theorem runInput_command_of_error {c : Word} {e : DecodeError} (h : decode c = .error e) (s : State) :
    runInput (.command c) s = illegalCommand s := by
  rw [runInput, runCommand, h]

/-- A command's word presented before the other inputs. -/
theorem withFetchWord_encode (s : State) (i : Instr) : s.withFetchWord 64 (encode i).toNat = present s (encode i) := by
  rw [State.withFetchWord, Nat.mod_eq_of_lt (encode i).isLt, BitVec.ofNat_toNat, BitVec.setWidth_eq]

/-- Settles O12: the step takes the word and runs what it decodes to, which for the word of a command is that
command. -/
theorem stepRunsTheDecodedCommand : Obligations.StepRunsTheDecodedCommand := by
  refine ⟨fun s c rest i hinputs hdecode => ?_, fun s i => ?_⟩
  · rw [step_of_inputs hinputs, runInput_command_of_ok hdecode]
  · have hdecode : decode (encode i) = .ok i := decodeOfEncodeIsTheCommand i
    rw [withFetchWord_encode, step_of_inputs rfl, runInput_command_of_ok hdecode]
    rfl

/-- Settles O13: the step takes the word and raises `IllegalCommand` on what is left. -/
theorem illegalWordChangesOnlyLasterr : Obligations.IllegalWordChangesOnlyLasterr := by
  intro s c rest e hinputs hdecode
  rw [step_of_inputs hinputs, runInput_command_of_error hdecode]
  rfl

/-- Every input of the host is run to a next state. -/
theorem runInput_goes (e : HostInput) (s : State) : ∃ t, runInput e s = .next t := by
  cases e with
  | resetInput => exact ⟨_, rfl⟩
  | command c =>
    cases hdecode : decode c with
    | error err => exact ⟨_, runInput_command_of_error hdecode s⟩
    | ok i =>
      obtain ⟨u, e, aux, val, hexec, -, -⟩ := answers_exec i s
      exact ⟨_, (runInput_command_of_ok hdecode s).trans hexec⟩

/-- Settles O16: an idle step keeps the state, and every input runs to its end. -/
theorem everyStepGoesOn : Obligations.EveryStepGoesOn := by
  intro s
  cases hinputs : s.inputs with
  | nil => exact ⟨s, step_idle hinputs⟩
  | cons e rest =>
    obtain ⟨t, ht⟩ := runInput_goes e { s with inputs := rest }
    exact ⟨t, (step_of_inputs hinputs).trans ht⟩

end Sys2Proof.Machine

/-! The data encodings (spec/30_encoding.md R53 to R57): the `w`-bit field of an integer, read back signed, is the
integer wrapped to `w` bits, and the four bytes of `LE32` add up to the 32-bit pattern. -/

namespace Sys2Proof.Machine

/-! ### The field -/

theorem enc_toInt (w : Nat) (v : Int) : (enc w v : Int) = v % (2 ^ w : Nat) :=
  Int.toNat_of_nonneg (Int.emod_nonneg v (by positivity))

/-- A field depends on the value modulo `2^w` only. -/
theorem enc_eq_iff {w : Nat} {v v' : Int} : enc w v = enc w v' ↔ v % (2 ^ w : Nat) = v' % (2 ^ w : Nat) := by
  rw [← enc_toInt, ← enc_toInt, Int.ofNat_inj]

theorem u32_toNat (v : Int) : ((u32 v).toNat : Int) = v % (2 ^ 32 : Nat) := by
  rw [u32, BitVec.toNat_ofInt, Int.toNat_of_nonneg (Int.emod_nonneg v (by positivity))]

/-- Reducing to 32 bits first does not change a field of at most 32. -/
theorem enc_u32 {w : Nat} (hw : w ≤ 32) (v : Int) : enc w ((u32 v).toNat : Int) = enc w v := by
  have hdvd : ((2 ^ w : Nat) : Int) ∣ (2 ^ 32 : Nat) := Int.natCast_dvd_natCast.2 (Nat.pow_dvd_pow 2 hw)
  rw [enc_eq_iff, u32_toNat, Int.emod_emod_of_dvd v hdvd]

/-- `2^w` is twice the bound of the signed range. -/
theorem two_pow_eq_twice {w : Nat} (hw : 1 ≤ w) : 2 ^ w = 2 * 2 ^ (w - 1) := by
  rw [← Nat.pow_succ', Nat.succ_eq_add_one, Nat.sub_add_cancel hw]

/-- A field read signed is the field modulo `2^w`. -/
theorem dec_emod (w x : Nat) : dec w x % (2 ^ w : Nat) = (x : Int) % (2 ^ w : Nat) := by
  unfold dec
  split
  · rfl
  · exact Int.sub_emod_right ..

/-- `enc_w(dec_w(x)) = x` (R55 (a)). -/
theorem enc_dec {w x : Nat} (hx : x < 2 ^ w) : enc w (dec w x) = x := by
  have hmod : (enc w (dec w x) : Int) = (x : Int) := by
    rw [enc_toInt, dec_emod, ← Int.natCast_emod, Nat.mod_eq_of_lt hx]
  exact Int.ofNat_inj.1 hmod

theorem wrap_eq_bmod (w : Nat) (v : Int) : wrap w v = v.bmod (2 ^ w) := BitVec.toInt_ofInt v

/-- `dec_w(enc_w(v)) = wrap_w(v)` (R55 (b)): the signed reading of a field is the balanced residue. -/
theorem dec_enc {w : Nat} (hw : 1 ≤ w) (v : Int) : dec w (enc w v) = wrap w v := by
  have hhalf : (enc w v < 2 ^ (w - 1)) ↔ v % (2 ^ w : Nat) < ((2 ^ w : Nat) + 1) / 2 := by
    rw [← enc_toInt, two_pow_eq_twice hw]
    omega
  rw [wrap_eq_bmod, Int.bmod_def, dec, enc_toInt]
  exact if_congr hhalf rfl rfl

/-- A value is its own wrap exactly when it fits. -/
theorem wrap_eq_self_iff {w : Nat} (hw : 1 ≤ w) {v : Int} :
    wrap w v = v ↔ -(2 ^ (w - 1) : Nat) ≤ v ∧ v < (2 ^ (w - 1) : Nat) := by
  rw [wrap_eq_bmod, Int.bmod_eq_iff (by positivity), two_pow_eq_twice hw, Int.sub_self]
  simp only [dvd_zero, and_true]
  omega

/-- Settles O7: a field is the value modulo `2^w`, and read signed it is the balanced residue. -/
theorem encDecLaws : Obligations.EncDecLaws := by
  intro w hw hw32
  refine ⟨fun x hx => enc_dec hx, fun v => ⟨dec_enc hw v, ?_⟩, fun v => (enc_u32 hw32 v).symm,
    fun v v' => enc_eq_iff.2⟩
  rw [dec_enc hw]
  exact wrap_eq_self_iff hw

/-! ### The little-endian word -/

/-- The four bytes of a number of 32 bits, weighted, add up to it. -/
theorem four_bytes_sum {m : Nat} (hm : m < 2 ^ 32) :
    m % 256 + 2 ^ 8 * (m / 2 ^ 8 % 256) + 2 ^ 16 * (m / 2 ^ 16 % 256) + 2 ^ 24 * (m / 2 ^ 24 % 256) = m := by
  omega

theorem le32Byte_toNat (v : Int) (i : Nat) : (le32Byte v i).toNat = (u32 v).toNat / 2 ^ (8 * i) % 256 :=
  BitVec.toNat_ofNat ..

/-- `SLE32` reads the pattern that `LE32` writes. -/
theorem sle32_le32Byte (v : Int) :
    sle32 (le32Byte v 0) (le32Byte v 1) (le32Byte v 2) (le32Byte v 3) = wrap 32 v := by
  have hsum := four_bytes_sum (u32 v).isLt
  simp only [sle32, le32Byte_toNat, Nat.mul_zero, Nat.pow_zero, Nat.div_one, Nat.mul_one, Nat.reduceMul] at hsum ⊢
  rw [hsum, BitVec.ofNat_toNat, BitVec.setWidth_eq]
  rfl

/-- Byte `i < 4` of the value is byte `i` of its 32-bit pattern. -/
theorem le32Byte_toInt (v : Int) {i : Nat} (hi : i < 4) :
    ((le32Byte v i).toNat : Int) = v / (2 ^ (8 * i) : Nat) % 256 := by
  have hu32 := u32_toNat v
  rw [le32Byte_toNat]
  interval_cases i <;> omega

/-- Settles O8: the bytes are the digits of the 32-bit pattern, which `SLE32` puts together and reads signed. -/
theorem sleOfLeIsTheValue : Obligations.SleOfLeIsTheValue := by
  intro v
  refine ⟨sle32_le32Byte v, fun hlo hhi => ?_, fun i hi => le32Byte_toInt v hi⟩
  rw [sle32_le32Byte]
  exact (wrap_eq_self_iff (by decide)).2 ⟨hlo, hhi⟩

end Sys2Proof.Machine

/-! A command with an operand that is legal in no state (spec/30_encoding.md R65, R67): each of the six commands that
has such operands refuses them before it writes anything. -/

namespace Sys2Proof.Machine

/-- A bare error response is its code followed by zeros (R66). -/
theorem responseWord_bare (e : Err) : responseWord e 0 0 = e.code ++ 0#56 := by cases e <;> rfl

theorem widthLegal_eq_wellFormed (w : BitVec 8) : widthLegal w = widthWellFormed w := by
  simp [widthLegal, widthWellFormed]

theorem statusRegister_eq_none {n : Nat} (hn : 12 < n) (s : State) : s.statusRegister n = none := by
  unfold State.statusRegister
  split
  case h_14 => rfl
  all_goals omega

theorem selected_eq_none {sel : BitVec 8} (hsel : 3 < sel.toNat) (s : State) : s.selected sel = none := by
  unfold State.selected
  split
  case h_5 => rfl
  all_goals omega

/-- The command ends in an error that nothing was written before. -/
def Refuses (i : Instr) (s : State) : Prop := ∃ e, e ≠ .ok ∧ exec i s = raise e s

section
variable {s : State} {w : BitVec 8}

theorem refuses_config {w h : BitVec 16} (hz : w.toNat = 0 ∨ h.toNat = 0) : Refuses (.config w h) s :=
  ⟨.badOperand, by decide, if_pos hz⟩

theorem refuses_rdreg {n : Value} (hn : 12 < n.toNat) : Refuses (.rdreg n) s := by
  refine ⟨.badOperand, by decide, ?_⟩
  rw [exec, execRdreg, statusRegister_eq_none hn]

theorem refuses_rdpix {sel : BitVec 8} (hsel : 3 < sel.toNat) (y x : BitVec 16) : Refuses (.rdpix sel y x) s := by
  cases hc : s.cfg with
  | false => exact ⟨.notConfigured, by decide, if_pos hc⟩
  | true =>
    refine ⟨.badOperand, by decide, ?_⟩
    rw [exec, execRdpix, selected_eq_none hsel, hc]
    rfl

theorem refuses_pkinit (hw : widthLegal w = false) : Refuses (.pkinit w) s :=
  ⟨.badWidth, by decide, if_pos hw⟩

theorem refuses_upinit (hw : widthLegal w = false) (size : Value) : Refuses (.upinit w size) s :=
  ⟨.badWidth, by decide, if_pos hw⟩

theorem refuses_decompress (hw : widthLegal w = false) (size : Value) : Refuses (.decompress w size) s := by
  cases hc : s.cfg with
  | false => exact ⟨.notConfigured, by decide, if_pos hc⟩
  | true =>
    refine ⟨.badWidth, by decide, ?_⟩
    rw [exec, execDecompress, hc, hw]
    rfl

/-- The commands that are not well-formed are those six with an operand out of range. -/
theorem refuses_of_illFormed {i : Instr} (hi : i.wellFormed = false) : Refuses i s := by
  cases i with
  | config w h =>
    have hz := of_decide_eq_false hi
    exact refuses_config (by omega)
  | rdreg n => exact refuses_rdreg (Nat.not_le.1 (of_decide_eq_false hi))
  | rdpix sel y x => exact refuses_rdpix (Nat.not_le.1 (of_decide_eq_false hi)) y x
  | pkinit w => exact refuses_pkinit ((widthLegal_eq_wellFormed w).trans hi)
  | upinit w size => exact refuses_upinit ((widthLegal_eq_wellFormed w).trans hi) size
  | decompress w size => exact refuses_decompress ((widthLegal_eq_wellFormed w).trans hi) size
  | _ => cases hi

end

theorem Err.code_ne_zero {e : Err} (he : e ≠ .ok) : e.code ≠ 0 := by
  cases e with
  | ok => exact absurd rfl he
  | _ => decide

/-- Settles O22: an ill-formed command is refused, and a refusal writes the bare response only. -/
theorem illFormedCommandsOnlyFail : Obligations.IllFormedCommandsOnlyFail := by
  intro i s t hi hexec
  obtain ⟨e, he, hraise⟩ := refuses_of_illFormed (s := s) hi
  obtain rfl := Host.Outcome.next.inj (hexec.symm.trans hraise)
  refine ⟨Err.code_ne_zero he, ?_⟩
  rw [respond_lastErr, ← responseWord_bare]
  rfl

end Sys2Proof.Machine

/-! `NEWFILE` (spec/30_encoding.md R70): `CINIT` and `DINIT` clear the previous frames, which end where the frame
does. -/

namespace Sys2Proof.Machine

/-- Zeros over all the cells a buffer may list leave it empty. -/
theorem Memory.fill_zero_eq_nil {k n : Nat} {m : Memory k} (hm : m.wf = true) (hbelow : m.below n = true) :
    Memory.fill m (fun _ => 0) n = [] := by
  refine Memory.ext_read (Memory.wf_fill _ _ hm) Memory.wf_nil fun i => ?_
  rw [Memory.read_fill _ _ _ hm, Memory.read_nil]
  split
  · rfl
  next hi => exact Memory.read_of_below hbelow (Nat.not_lt.1 hi)

/-- The state with the compressor's previous frame and results as for a new file (41_codec.md R112). -/
def State.newCompressor (s : State) : State :=
  { s with
    cprev := Memory.fill s.cprev (fun _ => 0) (s.h * s.w)
    cwidth := 0, csize := 0, minPix := 0xFFFF, maxPix := 0x0000 }

/-- The state with the decompressor's previous frame as for a new file (41_codec.md R113). -/
def State.newDecompressor (s : State) : State :=
  { s with dprev := Memory.fill s.dprev (fun _ => 0) (s.h * s.w) }

theorem exec_cinit {s : State} (hc : s.cfg = true) : exec .cinit s = finish 0 0 s.newCompressor :=
  if_neg (by simp [hc])

theorem exec_dinit {s : State} (hc : s.cfg = true) : exec .dinit s = finish 0 0 s.newDecompressor :=
  if_neg (by simp [hc])

theorem execList_cons_of_next {i : Instr} {s t : State} (h : exec i s = .next t) (is : List Instr) :
    execList (i :: is) s = execList is t := by
  rw [execList, h]

/-- `NEWFILE` is the two new instances, with a response after each. -/
theorem execList_newfile {s : State} (hc : s.cfg = true) :
    execList Pseudo.newfile.expand s =
      .next ((s.newCompressor.respond .ok 0 0).newDecompressor.respond .ok 0 0) := by
  have hc' : (s.newCompressor.respond .ok 0 0).cfg = true := hc
  rw [Pseudo.expand, execList_cons_of_next (exec_cinit hc), execList_cons_of_next (exec_dinit hc')]
  rfl

/-- Settles O37: the loops that clear the previous frames reach every cell a frame may list. -/
theorem newfileClearsBothPreviousFrames : Obligations.NewfileClearsBothPreviousFrames := by
  intro s h hc
  obtain ⟨-, -, -, ⟨hcwf, hcbelow⟩, ⟨hdwf, hdbelow⟩, -⟩ := h.buffers
  rw [← h.frame_cells hc] at hcbelow hdbelow
  exact ⟨_, execList_newfile hc, Memory.fill_zero_eq_nil hcwf hcbelow, Memory.fill_zero_eq_nil hdwf hdbelow,
    rfl, rfl, rfl, rfl, List.append_assoc ..⟩

end Sys2Proof.Machine

/-! What the packer's internal procedures leave in `OBUF` (spec/40_bitpack.md R73, R79, R80), as byte lists: pushes
from an empty packer and the flush after them emit `pack`, and the compressor emits the payload. -/

namespace Sys2Proof.Machine

/-! ### Byte lists as numbers -/

theorem bytesValue_lt (Y : List Byte) : bytesValue Y < 256 ^ Y.length := by
  induction Y with
  | nil => decide
  | cons b Y ih =>
    rw [bytesValue_cons, List.length_cons, Nat.pow_succ']
    have hb := Nat.mul_le_mul_right (256 ^ Y.length) (Nat.le_of_lt_succ b.isLt)
    omega

/-- The most significant byte of a number. -/
theorem byteOf_zero (b : Byte) {Z len : Nat} (hZ : Z < 256 ^ len) :
    byteOf (b.toNat * 256 ^ len + Z) (len + 1) 0 = b := by
  have hpow : 2 ^ (8 * (len + 1 - 1 - 0)) = 256 ^ len := Nat.pow_mul 2 8 len
  rw [byteOf, hpow, Nat.mul_comm, Nat.mul_add_div (by positivity), Nat.div_eq_of_lt hZ, Nat.add_zero,
    BitVec.ofNat_toNat, BitVec.setWidth_eq]

/-- The bytes after the first do not depend on it. -/
theorem byteOf_succ (b Z : Nat) {len j : Nat} (hj : j < len) :
    byteOf (b * 256 ^ len + Z) (len + 1) (j + 1) = byteOf Z len j := by
  have hpow : 256 ^ len = 2 ^ (8 * (len - 1 - j)) * (256 * 256 ^ j) := by
    rw [← Nat.pow_succ', show (256 : Nat) = 2 ^ 8 from rfl, ← Nat.pow_mul, ← Nat.pow_mul, ← Nat.pow_add]
    congr 1
    omega
  have hshift : len + 1 - 1 - (j + 1) = len - 1 - j := by omega
  rw [byteOf, byteOf, hshift, hpow, Nat.mul_left_comm, Nat.mul_add_div (by positivity)]
  apply BitVec.eq_of_toNat_eq
  rw [BitVec.toNat_ofNat, BitVec.toNat_ofNat, Nat.mul_left_comm]
  exact Nat.mul_add_mod _ _ _

/-- Bytes are the digits of their number. -/
theorem map_byteOf_bytesValue (Y : List Byte) :
    (List.range Y.length).map (byteOf (bytesValue Y) Y.length) = Y := by
  induction Y with
  | nil => rfl
  | cons b Y ih =>
    rw [List.length_cons, List.range_succ_eq_map, List.map_cons, List.map_map]
    congr 1
    · rw [bytesValue_cons, byteOf_zero b (bytesValue_lt Y)]
    · conv_rhs => rw [← ih]
      refine List.map_congr_left fun j hj => ?_
      rw [Function.comp_apply, bytesValue_cons, Nat.succ_eq_add_one, byteOf_succ _ _ (List.mem_range.1 hj)]

@[simp] theorem length_pack (w : Nat) (S : List Int) : (pack w S).length = bytesFor (S.length * w) := by
  simp [pack]

/-- The bytes of a packed sequence are fixed by how many they are and what they add up to. -/
theorem eq_pack_of_bytesValue {w : Nat} {S : List Int} {Y : List Byte} (hlen : Y.length = bytesFor (S.length * w))
    (hval : bytesValue Y = fieldsValue w S * 2 ^ (8 * Y.length - S.length * w)) : Y = pack w S := by
  conv_lhs => rw [← map_byteOf_bytesValue Y]
  rw [hval, hlen]
  rfl

theorem fieldsValue_foldl (w : Nat) (S : List Int) (z : Nat) :
    S.foldl (fun z v => z * 2 ^ w + enc w v) z = z * 2 ^ (S.length * w) + fieldsValue w S := by
  induction S generalizing z with
  | nil => simp [fieldsValue]
  | cons v S ih =>
    rw [fieldsValue, List.foldl_cons, List.foldl_cons, ih, ih (0 * 2 ^ w + enc w v), List.length_cons, Nat.succ_mul,
      Nat.pow_add]
    ring

/-- The first field is the most significant. -/
theorem fieldsValue_cons (w : Nat) (v : Int) (S : List Int) :
    fieldsValue w (v :: S) = enc w v * 2 ^ (S.length * w) + fieldsValue w S := by
  rw [fieldsValue, List.foldl_cons, fieldsValue_foldl, Nat.zero_mul, Nat.zero_add]

/-! ### Bytes added to the output -/

/-- From `s` to `t` the bytes `bs` were put at the end of the output, and `OBUF` is as it was elsewhere. -/
structure Emitted (s t : State) (bs : List Byte) : Prop where
  wf : t.obuf.wf = true
  olen : t.olen = s.olen + bs.length
  bytes : t.obuf.slice s.olen bs.length = bs
  frame : ∀ i, i < s.olen ∨ t.olen ≤ i → t.obuf.read i = s.obuf.read i

theorem Emitted.refl {s : State} (hwf : s.obuf.wf = true) : Emitted s s [] :=
  ⟨hwf, rfl, rfl, fun _ _ => rfl⟩

theorem Emitted.trans {s t u : State} {bs bs' : List Byte} (h : Emitted s t bs) (h' : Emitted t u bs') :
    Emitted s u (bs ++ bs') := by
  have holen := h.olen
  have holen' := h'.olen
  refine ⟨h'.wf, by rw [List.length_append]; omega, ?_, fun i hi => ?_⟩
  · have hkept : u.obuf.slice s.olen bs.length = t.obuf.slice s.olen bs.length :=
      Memory.slice_congr fun i _ hi => h'.frame i (.inl (by omega))
    rw [List.length_append, Memory.slice_add, hkept, h.bytes, ← holen, h'.bytes]
  · rw [h'.frame i (by omega), h.frame i (by omega)]

theorem emit_emitted {s : State} (hwf : s.obuf.wf = true) (b : Byte) : Emitted s (s.emit b) [b] where
  wf := Memory.wf_write _ _ hwf
  olen := rfl
  bytes := congrArg (fun c => [c]) (Memory.read_write_same _ _ hwf)
  frame i hi := Memory.read_write_other _ (by rw [emit_olen] at hi; omega)

theorem emitAll_emitted {s : State} (hwf : s.obuf.wf = true) (bs : List Byte) : Emitted s (s.emitAll bs) bs := by
  induction bs generalizing s with
  | nil => exact .refl hwf
  | cons b bs ih =>
    have hb := emit_emitted hwf b
    exact hb.trans (ih hb.wf)

/-! ### Bits taken by the packer -/

/-- What the packer's procedures need of the state they start in. -/
structure State.PackerSound (s : State) : Prop where
  wf : s.obuf.wf = true
  width : s.pkW ≤ 32
  count : s.pkCnt ≤ 7
  zeros : s.pkAcc.toNat % 2 ^ (40 - s.pkCnt) = 0

/-- From `s` to `t` the packer took the `n` bits of the number `V`: the bytes `bs` it emitted, followed by the bits
pending in `t`, are the bits pending in `s` followed by these. -/
structure Packed (s t : State) (n V : Nat) (bs : List Byte) : Prop where
  emitted : Emitted s t bs
  sound : t.PackerSound
  bits : 8 * bs.length + t.pkCnt = s.pkCnt + n
  value : bytesValue bs * 2 ^ t.pkCnt + t.pkPending = s.pkPending * 2 ^ n + V

theorem Packed.refl {s : State} (h : s.PackerSound) : Packed s s 0 0 [] :=
  ⟨.refl h.wf, h, by simp, by simp⟩

theorem Packed.trans {s t u : State} {n n' V V' : Nat} {bs bs' : List Byte} (h : Packed s t n V bs)
    (h' : Packed t u n' V' bs') : Packed s u (n + n') (V * 2 ^ n' + V') (bs ++ bs') := by
  have hbits := h.bits
  have hbits' := h'.bits
  have hpow : 256 ^ bs'.length * 2 ^ u.pkCnt = 2 ^ t.pkCnt * 2 ^ n' := by
    rw [show (256 : Nat) = 2 ^ 8 from rfl, ← Nat.pow_mul, ← Nat.pow_add, ← Nat.pow_add, hbits']
  refine ⟨h.emitted.trans h'.emitted, h'.sound, by rw [List.length_append]; omega, ?_⟩
  calc bytesValue (bs ++ bs') * 2 ^ u.pkCnt + u.pkPending
      = bytesValue bs * (256 ^ bs'.length * 2 ^ u.pkCnt) + (bytesValue bs' * 2 ^ u.pkCnt + u.pkPending) := by
        rw [bytesValue_append]; ring
    _ = (bytesValue bs * 2 ^ t.pkCnt + t.pkPending) * 2 ^ n' + V' := by rw [hpow, h'.value]; ring
    _ = s.pkPending * 2 ^ (n + n') + (V * 2 ^ n' + V') := by rw [h.value, Nat.pow_add]; ring

theorem pkPush_packed {s : State} (h : s.PackerSound) (v : Int) :
    Packed s (s.pkPush v) s.pkW (enc s.pkW v) ((s.pkPush v).obuf.slice s.olen s.pushBytes) := by
  have hwidth := h.width
  have hcount := h.count
  obtain ⟨holen, hcnt, hwf, hread, hzeros, hvalue⟩ := pkPush_spec s v h.wf (by omega) h.zeros
  refine ⟨⟨hwf, by simpa using holen, by simp, fun i hi => hread i (by omega)⟩,
    ⟨hwf, by simpa using hwidth, by omega, hzeros⟩, ?_, hvalue⟩
  rw [Memory.length_slice, hcnt]
  exact Nat.div_add_mod _ 8

theorem pkPushAll_packed {s : State} (h : s.PackerSound) (vs : List Int) :
    ∃ bs, Packed s (s.pkPushAll vs) (vs.length * s.pkW) (fieldsValue s.pkW vs) bs := by
  induction vs generalizing s with
  | nil => exact ⟨[], by simpa [fieldsValue, State.pkPushAll] using Packed.refl h⟩
  | cons v vs ih =>
    have hv := pkPush_packed h v
    obtain ⟨bs, hvs⟩ := ih hv.sound
    rw [pkPush_pkW] at hvs
    refine ⟨(s.pkPush v).obuf.slice s.olen s.pushBytes ++ bs, ?_⟩
    rw [List.length_cons, Nat.succ_mul, Nat.add_comm, fieldsValue_cons]
    exact hv.trans hvs

theorem pkPending_eq_zero {s : State} (h0 : s.pkCnt = 0) : s.pkPending = 0 := by
  have hlt : s.pkPending < 2 ^ s.pkCnt := pending_lt _ (by omega)
  rw [h0] at hlt
  exact Nat.lt_one_iff.1 hlt

/-- The flush emits the pending bits, padded with zeros to whole bytes. -/
theorem pkFlush_emitted {s : State} (h : s.PackerSound) :
    ∃ bs, Emitted s s.pkFlush bs ∧ bs.length = s.flushBytes ∧
      bytesValue bs = s.pkPending * 2 ^ (8 * bs.length - s.pkCnt) := by
  obtain ⟨holen, hwf, hread, hbyte⟩ := pkFlush_spec s h.wf h.count h.zeros
  rcases Nat.eq_zero_or_pos s.pkCnt with h0 | hpos
  · have hnone : s.flushBytes = 0 := if_neg (by omega)
    refine ⟨[], ⟨hwf, by simpa [hnone] using holen, rfl, fun i _ => hread i (.inr h0)⟩, hnone.symm, ?_⟩
    rw [pkPending_eq_zero h0, Nat.zero_mul, bytesValue_nil]
  · have hone : s.flushBytes = 1 := if_pos hpos
    rw [hone] at holen
    refine ⟨[s.pkFlush.obuf.read s.olen], ⟨hwf, holen, rfl, fun i hi => hread i (.inl ?_)⟩, hone.symm, ?_⟩
    · omega
    rw [bytesValue_cons, hbyte hpos]
    simp

/-- Pushing a sequence into an empty packer and flushing emits the packed sequence (R73). -/
theorem pkFlush_pkPushAll_emitted {s : State} (h : s.PackerSound) (h0 : s.pkCnt = 0) (vs : List Int) :
    Emitted s (s.pkPushAll vs).pkFlush (pack s.pkW vs) := by
  obtain ⟨bs, hpushed⟩ := pkPushAll_packed h vs
  obtain ⟨bs', hflushed, hlen, hvalue⟩ := pkFlush_emitted hpushed.sound
  have hbits := hpushed.bits
  have hcount := hpushed.sound.count
  have hlength : 8 * (bs ++ bs').length - vs.length * s.pkW = 8 * bs'.length - (s.pkPushAll vs).pkCnt := by
    rw [List.length_append]
    omega
  have hfits : (s.pkPushAll vs).pkCnt ≤ 8 * bs'.length := by
    rw [hlen, State.flushBytes]
    split <;> omega
  have hpow : 256 ^ bs'.length = 2 ^ (s.pkPushAll vs).pkCnt * 2 ^ (8 * bs'.length - (s.pkPushAll vs).pkCnt) := by
    rw [← Nat.pow_add, Nat.add_sub_cancel' hfits]
    exact (Nat.pow_mul 2 8 _).symm
  have hpack : bs ++ bs' = pack s.pkW vs := by
    refine eq_pack_of_bytesValue ?_ ?_
    · rw [List.length_append, hlen, State.flushBytes, bytesFor]
      split <;> omega
    · have hall := hpushed.value
      rw [pkPending_eq_zero h0, Nat.zero_mul, Nat.zero_add] at hall
      rw [hlength, bytesValue_append, hvalue, hpow, ← hall]
      ring
  rw [← hpack]
  exact hpushed.emitted.trans hflushed

/-! ### The payload -/

/-- The compressor's last step emits the payload from `OBUF[0]` on (41_codec.md R102). -/
theorem emitPayload_emitted {s : State} (hwf : s.obuf.wf = true) (d0 : Int) (a : List Int) {w : Nat} (hw : w ≤ 32) :
    Emitted { s with olen := 0 } (s.emitPayload d0 a w) (payload d0 a w) := by
  have hfirst := emitAll_emitted (s := { s with olen := 0 }) hwf (le32 d0)
  have hinit : Emitted { s with olen := 0 } ((State.emitAll { s with olen := 0 } (le32 d0)).pkInit w) (le32 d0) :=
    ⟨hfirst.wf, hfirst.olen, hfirst.bytes, hfirst.frame⟩
  exact hinit.trans (pkFlush_pkPushAll_emitted ⟨hinit.wf, hw, Nat.zero_le 7, Nat.zero_mod _⟩ rfl a)

theorem length_payload (d0 : Int) (a : List Int) (w : Nat) : (payload d0 a w).length = 4 + bytesFor (a.length * w) := by
  rw [payload, List.length_append, length_pack]
  rfl

theorem exec_compress {s : State} (hc : s.cfg = true) :
    exec .compress s = finish (BitVec.ofNat 8 s.compressed.cwidth) (count32 s.compressed.csize) s.compressed :=
  if_neg (by simp [hc])

/-- What `COMPRESS` puts in `OBUF`, from index 0 on. -/
theorem compressed_emitted {s : State} (hwf : s.obuf.wf = true) :
    Emitted { s with olen := 0 } s.compressed (payload (s.deltas.headD 0) (adjacent s.deltas) s.frameWidth) :=
  have hw : s.frameWidth ≤ 32 := (frameWidth_bounds s).2.trans (by decide)
  have h := emitPayload_emitted (s := s.updateCprev) hwf (s.deltas.headD 0) (adjacent s.deltas) hw
  ⟨h.wf, h.olen, h.bytes, h.frame⟩

theorem length_adjacent_deltas (s : State) : (adjacent s.deltas).length = s.n - 1 := by
  simp [length_adjacent, State.deltas]

/-- The number of bytes `COMPRESS` emits (30_encoding.md R59). -/
theorem compressed_olen {s : State} (hwf : s.obuf.wf = true) :
    s.compressed.olen = 4 + ((s.n - 1) * s.frameWidth + 7) / 8 := by
  rw [(compressed_emitted hwf).olen, length_payload, length_adjacent_deltas]
  exact Nat.zero_add _

/-- At a width of at most 18 a payload takes at most 4 bytes a pixel. -/
theorem payload_bytes_le {n w : Nat} (hn : 1 ≤ n) (hw : w ≤ 18) : 4 + ((n - 1) * w + 7) / 8 ≤ 4 * n := by
  have hbits := Nat.mul_le_mul_left (n - 1) hw
  omega

/-- Settles O49: the payload is all that the pipeline emits, and the response shows the two result registers. -/
theorem compressEmitsThePayload : Obligations.CompressEmitsThePayload := by
  intro s h hc
  obtain ⟨⟨howf, -⟩, -⟩ := h.buffers
  obtain ⟨hw, -, hh, -, hn, -⟩ := h.geometry_of_cfg hc
  have hpixels : 1 ≤ s.n := by rw [hn]; exact Nat.mul_pos hw hh
  have hemit := compressed_emitted howf
  have holen := compressed_olen howf
  have hbytes : s.compressed.obuf.slice 0 s.compressed.olen =
      payload (s.deltas.headD 0) (adjacent s.deltas) s.frameWidth := by
    rw [hemit.olen]
    exact (congrArg _ (Nat.zero_add _)).trans hemit.bytes
  refine ⟨_, exec_compress hc, holen, ?_, hbytes, fun a ha => hemit.frame a (.inr ha), rfl, rfl, fun _ => ?_⟩
  · exact holen.trans_le (payload_bytes_le hpixels (frameWidth_bounds s).2)
  · rw [respond_trace, compressed_frame]
    rfl

end Sys2Proof.Machine

/-! The sequence functions `pack` and `unpack` (spec/40_bitpack.md R73 to R76): the bytes of a packed sequence read as
one number are its fields above the pad bits, so each field is found where `unpack` looks for it. -/

namespace Sys2Proof.Machine

/-! ### Lengths -/

@[simp] theorem pack_nil (w : Nat) : pack w [] = [] := by simp [pack, bytesFor]

/-- The bytes of a number of bits hold them, with at most 7 to spare. -/
theorem le_mul_bytesFor (bits : Nat) : bits ≤ 8 * bytesFor bits := by
  unfold bytesFor
  omega

/-- Settles O9: the length is what `pack` counts its bytes with. -/
theorem packLength : Obligations.PackLength :=
  fun w S => ⟨length_pack w S, pack_nil w⟩

/-! ### The number of a packed sequence -/

/-- The digits of a number that fits its bytes make up the number. -/
theorem bytesValue_map_byteOf {Z len : Nat} (hZ : Z < 256 ^ len) :
    bytesValue ((List.range len).map (byteOf Z len)) = Z := by
  induction len generalizing Z with
  | zero => simpa using (Nat.lt_one_iff.1 hZ).symm
  | succ len ih =>
    have hlow : Z % 256 ^ len < 256 ^ len := Nat.mod_lt _ (by positivity)
    have hdigit : Z / 256 ^ len < 2 ^ 8 := by
      rw [Nat.pow_succ'] at hZ
      exact Nat.div_lt_of_lt_mul (by rwa [Nat.mul_comm])
    have hfirst : byteOf Z (len + 1) 0 = BitVec.ofNat 8 (Z / 256 ^ len) := by
      simp [byteOf, Nat.pow_mul]
    have hrest : (List.range len).map (byteOf Z (len + 1) ∘ Nat.succ) =
        (List.range len).map (byteOf (Z % 256 ^ len) len) := by
      refine List.map_congr_left fun j hj => ?_
      rw [← byteOf_succ (Z / 256 ^ len) (Z % 256 ^ len) (List.mem_range.1 hj), Nat.mul_comm, Nat.div_add_mod]
      rfl
    rw [List.range_succ_eq_map, List.map_cons, List.map_map, bytesValue_cons, hfirst, hrest, ih hlow,
      BitVec.toNat_ofNat, Nat.mod_eq_of_lt hdigit, List.length_map, List.length_range, Nat.mul_comm]
    exact Nat.div_add_mod Z _

theorem fieldsValue_lt (w : Nat) (S : List Int) : fieldsValue w S < 2 ^ (S.length * w) := by
  induction S with
  | nil => simp [fieldsValue]
  | cons v S ih =>
    have henc := Nat.mul_le_mul_right (2 ^ (S.length * w)) (Nat.succ_le_of_lt (enc_lt w v))
    rw [fieldsValue_cons, List.length_cons, Nat.succ_mul, Nat.add_comm (S.length * w), Nat.pow_add]
    rw [Nat.succ_mul] at henc
    omega

/-- A packed sequence as a number (R73): the fields, above the pad bits. -/
theorem bytesValue_pack (w : Nat) (S : List Int) :
    bytesValue (pack w S) = fieldsValue w S * 2 ^ (8 * bytesFor (S.length * w) - S.length * w) := by
  refine bytesValue_map_byteOf ?_
  calc fieldsValue w S * 2 ^ (8 * bytesFor (S.length * w) - S.length * w)
      < 2 ^ (S.length * w) * 2 ^ (8 * bytesFor (S.length * w) - S.length * w) :=
        Nat.mul_lt_mul_of_pos_right (fieldsValue_lt w S) (by positivity)
    _ = 256 ^ bytesFor (S.length * w) := by
        rw [← Nat.pow_add, Nat.add_sub_cancel' (le_mul_bytesFor _)]
        exact Nat.pow_mul 2 8 _

/-! ### A field at its position -/

/-- Field `k` of the fields taken as one number has the fields after it below it. -/
theorem fieldsValue_digit (w : Nat) {S : List Int} {k : Nat} (hk : k < S.length) :
    fieldsValue w S / 2 ^ ((S.length - (k + 1)) * w) % 2 ^ w = enc w S[k] := by
  induction S generalizing k with
  | nil => cases hk
  | cons v S ih =>
    have hlow := fieldsValue_lt w S
    rw [fieldsValue_cons]
    cases k with
    | zero =>
      rw [List.length_cons, Nat.zero_add, Nat.add_sub_cancel, Nat.mul_comm, Nat.mul_add_div (by positivity),
        Nat.div_eq_of_lt hlow, Nat.add_zero, Nat.mod_eq_of_lt (enc_lt w v)]
      rfl
    | succ k =>
      have hk' : k < S.length := Nat.lt_of_succ_lt_succ hk
      have hpow : 2 ^ (S.length * w) = 2 ^ ((S.length - (k + 1)) * w) * (2 ^ w * 2 ^ (k * w)) := by
        rw [← Nat.pow_add, ← Nat.pow_add, Nat.add_comm w, ← Nat.succ_mul k, ← Nat.add_mul, Nat.succ_eq_add_one,
          Nat.sub_add_cancel hk']
      rw [List.length_cons, Nat.add_sub_add_right, hpow, Nat.mul_left_comm, Nat.mul_add_div (by positivity),
        Nat.mul_left_comm, Nat.mul_add_mod, ih hk']
      rfl

/-- `unpack` finds in a packed sequence the fields that `pack` put there. -/
theorem fieldAt_pack (w : Nat) {S : List Int} {k : Nat} (hk : k < S.length) :
    fieldAt (pack w S) w k = enc w S[k] := by
  have hbits := le_mul_bytesFor (S.length * w)
  have hle : (k + 1) * w ≤ S.length * w := Nat.mul_le_mul_right w hk
  have hpos : 8 * bytesFor (S.length * w) - (k + 1) * w =
      (8 * bytesFor (S.length * w) - S.length * w) + (S.length - (k + 1)) * w := by
    rw [Nat.sub_mul]
    omega
  rw [fieldAt, bytesValue_pack, length_pack, hpos, Nat.pow_add, ← Nat.div_div_eq_div_mul,
    Nat.mul_div_cancel _ (by positivity), fieldsValue_digit w hk]

/-- Unpacking a packed sequence wraps each of its values (R75). -/
theorem unpack_pack {w : Nat} (hw : 1 ≤ w) (S : List Int) :
    unpack w S.length (pack w S) = some (S.map (wrap w)) := by
  rw [unpack, if_pos (by rw [length_pack]; exact le_mul_bytesFor _)]
  congr 1
  refine List.ext_getElem (by simp) fun k hk _ => ?_
  have hk' : k < S.length := by simpa using hk
  rw [List.getElem_map, List.getElem_map, List.getElem_range, fieldAt_pack w hk', dec_enc hw]

/-- Settles O10: unpacking wraps each value, and a value that fits is its own wrap. -/
theorem unpackOfPackIsTheSequence : Obligations.UnpackOfPackIsTheSequence := by
  intro w S hw _
  refine ⟨unpack_pack hw S, fun hfit => ?_⟩
  have hself : S.map (wrap w) = S :=
    (List.map_congr_left fun v hv => (wrap_eq_self_iff hw).2 (hfit v hv)).trans (List.map_id' S)
  rw [unpack_pack hw, hself]

end Sys2Proof.Machine

/-! The packer commands (spec/40_bitpack.md R81 to R84): what each answers when its checks pass or fail, and `PACK` as
a run of them. The responses between the pushes go past the packer, which neither reads nor writes them. -/

namespace Sys2Proof.Machine

/-! ### The commands with their checks decided -/

/-- The packer opened at width `w`, with `OBUF` to be written from index 0 (R82). -/
def State.pkStart (s : State) (w : Nat) : State := State.pkInit { s with olen := 0 } w

section
variable {s : State}

theorem exec_pkinit {w : BitVec 8} (hw : widthLegal w = true) :
    exec (.pkinit w) s = finish 0 0 (s.pkStart w.toNat) :=
  if_neg (by simp [hw])

theorem exec_pkpush (v : Value) (ho : s.pkW ≠ 0) (hfit : s.olen + s.pushBytes ≤ s.bufcap) :
    exec (.pkpush v) s =
      finish (BitVec.ofNat 8 s.pushBytes) (count32 (s.pkPush v.toInt).olen) (s.pkPush v.toInt) :=
  (if_neg ho).trans (if_neg (Nat.not_lt.2 hfit))

theorem exec_pkpush_full (v : Value) (ho : s.pkW ≠ 0) (hfull : s.bufcap < s.olen + s.pushBytes) :
    exec (.pkpush v) s = raise .bufferFull s :=
  (if_neg ho).trans (if_pos hfull)

theorem exec_pkflush (ho : s.pkW ≠ 0) (hfit : s.olen + s.flushBytes ≤ s.bufcap) :
    exec .pkflush s = finish (BitVec.ofNat 8 s.flushBytes) (count32 s.pkFlush.olen) s.pkFlush :=
  (if_neg ho).trans (if_neg (Nat.not_lt.2 hfit))

theorem exec_pkflush_full (ho : s.pkW ≠ 0) (hfull : s.bufcap < s.olen + s.flushBytes) :
    exec .pkflush s = raise .bufferFull s :=
  (if_neg ho).trans (if_pos hfull)

theorem flushBytes_of_pos (hpos : 0 < s.pkCnt) : s.flushBytes = 1 := if_pos hpos

theorem flushBytes_of_zero (h0 : s.pkCnt = 0) : s.flushBytes = 0 := if_neg (by omega)

/-- With nothing pending the flush only closes the packer. -/
theorem pkFlush_of_zero (h0 : s.pkCnt = 0) : s.pkFlush = { s with pkAcc := 0, pkCnt := 0, pkW := 0 } := by
  rw [State.pkFlush, if_neg (by omega)]

theorem pkStart_sound (hwf : s.obuf.wf = true) {w : Nat} (hw : w ≤ 32) : (s.pkStart w).PackerSound :=
  ⟨hwf, hw, Nat.zero_le 7, Nat.zero_mod _⟩

theorem State.PackerInv.sound (h : s.PackerInv) (hwf : s.obuf.wf = true) : s.PackerSound := by
  obtain ⟨hwidth, ⟨k, hcount⟩, hzeros, -⟩ := h
  exact ⟨hwf, hwidth, by omega, hzeros⟩

end

/-- Settles O38: the width is legal, so the packer is opened and `OLEN` set to 0. -/
theorem pkinitOpensThePacker : Obligations.PkinitOpensThePacker :=
  fun _ w hw1 hw32 => exec_pkinit ((widthLegal_iff w).2 ⟨hw1, hw32⟩)

/-- Settles O27: both space checks come before anything is written. -/
theorem fullOutputBufferRefusesBytes : Obligations.FullOutputBufferRefusesBytes :=
  fun _ v ho => ⟨fun hfull => exec_pkpush_full v ho hfull,
    fun hpos hfull => exec_pkflush_full ho (by rw [flushBytes_of_pos hpos]; exact hfull)⟩

/-- Settles O39: the command answers after the procedure `pk_push`, whose numbers `pkPush_spec` gives. -/
theorem pkpushAppendsTheField : Obligations.PkpushAppendsTheField := by
  intro s v h hwf ho hfit
  have hs := h.sound hwf
  have hwidth := hs.width
  have hcount := hs.count
  obtain ⟨holen, hcnt, hwf', hread, hzeros, hvalue⟩ := pkPush_spec s v.toInt hwf (by omega) hs.zeros
  refine ⟨_, exec_pkpush v ho hfit, holen, hcnt, hvalue, hzeros, fun a ha => hread a ?_, hwf',
    congrArg (State.respond · .ok _ _) (pkPush_frame s v.toInt)⟩
  rwa [respond_olen, holen] at ha

/-- Settles O40: the command answers after the procedure `pk_flush`, which emits a byte when bits are pending. -/
theorem pkflushEmitsThePaddedTail : Obligations.PkflushEmitsThePaddedTail := by
  intro s h hwf ho hroom
  have hs := h.sound hwf
  obtain ⟨-, -, -, hbound⟩ := h
  obtain ⟨holen, hwf', hread, hbyte⟩ := pkFlush_spec s hwf hs.count hs.zeros
  have hfit : s.olen + s.flushBytes ≤ s.bufcap := by
    rcases Nat.eq_zero_or_pos s.pkCnt with h0 | hpos
    · rwa [flushBytes_of_zero h0]
    · rw [flushBytes_of_pos hpos]
      exact hroom hpos
  have haux : BitVec.ofNat 8 s.flushBytes = if s.pkCnt = 0 then 0 else 1 := by
    split
    next h0 => exact congrArg _ (flushBytes_of_zero h0)
    next h0 => exact congrArg _ (flushBytes_of_pos (Nat.pos_of_ne_zero h0))
  refine ⟨_, exec_pkflush ho hfit, fun h0 => ?_, fun hpos => ?_, hwf', ?_⟩
  · rw [pkFlush_of_zero h0]
    exact ⟨rfl, rfl⟩
  · rw [flushBytes_of_pos hpos] at holen
    exact ⟨holen, hbyte hpos, fun a ha => hread a (.inl ha)⟩
  · rw [haux]
    exact congrArg (State.respond · .ok _ _) (pkFlush_frame s)

/-! ### A run of commands -/

/-- The state with what a response writes, `LASTERR` and the trace, put in place of its own. -/
def State.withLog (s : State) (e : BitVec 8) (tr : List Word) : State := { s with lastErr := e, trace := tr }

theorem respond_eq_withLog (s : State) (e : Err) (aux : BitVec 8) (val : Value) :
    s.respond e aux val = s.withLog e.code (s.trace ++ [responseWord e aux val]) := rfl

section
variable (s : State) (e : BitVec 8) (tr : List Word)

theorem pkDrain_withLog (fuel : Nat) :
    State.pkDrain fuel (s.withLog e tr) = (State.pkDrain fuel s).withLog e tr := by
  induction fuel generalizing s with
  | zero => rfl
  | succ fuel ih =>
    rw [State.pkDrain, State.pkDrain, apply_ite (State.withLog · e tr), ← ih]
    rfl

theorem pkPush_withLog (v : Int) : (s.withLog e tr).pkPush v = (s.pkPush v).withLog e tr :=
  pkDrain_withLog (s.pkPlace v) e tr (s.pkCnt + s.pkW)

theorem pkPushAll_withLog (vs : List Int) : (s.withLog e tr).pkPushAll vs = (s.pkPushAll vs).withLog e tr := by
  induction vs generalizing s with
  | nil => rfl
  | cons v vs ih => rw [State.pkPushAll, pkPush_withLog, ih, State.pkPushAll]

theorem pkFlush_withLog : (s.withLog e tr).pkFlush = s.pkFlush.withLog e tr := by
  rcases Nat.eq_zero_or_pos s.pkCnt with h0 | hpos
  · rw [pkFlush_of_zero h0, pkFlush_of_zero (s := s.withLog e tr) h0]
    rfl
  · rw [State.pkFlush, State.pkFlush, if_pos hpos, if_pos (show 0 < (s.withLog e tr).pkCnt from hpos)]
    rfl

end

theorem State.PackerSound.withLog {s : State} (h : s.PackerSound) (e : BitVec 8) (tr : List Word) :
    (s.withLog e tr).PackerSound :=
  ⟨h.wf, h.width, h.count, h.zeros⟩

/-- The pushes and the flush of `PACK`, where all the bits fit, are `pk_push` of each value and `pk_flush`, with a
response after each. -/
theorem execList_pkpush_pkflush {s : State} (h : s.PackerSound) (ho : s.pkW ≠ 0) (S : List Value)
    (hfit : 8 * s.olen + s.pkCnt + S.length * s.pkW ≤ 8 * s.bufcap) :
    ∃ tr, execList (S.map .pkpush ++ [.pkflush]) s =
      .next ((s.pkPushAll (S.map BitVec.toInt)).pkFlush.withLog 0 tr) := by
  induction S generalizing s with
  | nil =>
    rw [List.length_nil, Nat.zero_mul] at hfit
    have hroom : s.olen + s.flushBytes ≤ s.bufcap := by
      unfold State.flushBytes
      split <;> omega
    exact ⟨_, execList_cons_of_next (exec_pkflush ho hroom) []⟩
  | cons v S ih =>
    have hpushed := pkPush_packed h v.toInt
    have hbits := hpushed.bits
    have holen := hpushed.emitted.olen
    rw [List.length_cons, Nat.succ_mul S.length] at hfit
    have hroom : s.olen + s.pushBytes ≤ s.bufcap := by
      unfold State.pushBytes
      omega
    have hexec := exec_pkpush v ho hroom
    rw [finish, respond_eq_withLog] at hexec
    generalize (s.pkPush v.toInt).trace ++ _ = tr₀ at hexec
    have hfit' : 8 * (s.pkPush v.toInt).olen + (s.pkPush v.toInt).pkCnt + S.length * (s.pkPush v.toInt).pkW ≤
        8 * (s.pkPush v.toInt).bufcap := by
      rw [pkPush_pkW, pkPush_bufcap]
      omega
    rw [← pkPush_pkW s v.toInt] at ho
    obtain ⟨tr, hrest⟩ := ih (hpushed.sound.withLog Err.ok.code tr₀) ho hfit'
    refine ⟨tr, ?_⟩
    rw [List.map_cons, List.cons_append, execList_cons_of_next hexec, hrest, pkPushAll_withLog, pkFlush_withLog]
    rfl

/-- `PACK` with room for its bytes runs the packer's procedures over the whole sequence (R81). -/
theorem execList_pack {s : State} {w : BitVec 8} (S : List Value) (hw1 : 1 ≤ w.toNat) (hw32 : w.toNat ≤ 32)
    (hwf : s.obuf.wf = true) (hfit : bytesFor (S.length * w.toNat) ≤ s.bufcap) :
    ∃ tr, execList (Pseudo.pack w S).expand s =
      .next (((s.pkStart w.toNat).pkPushAll (S.map BitVec.toInt)).pkFlush.withLog 0 tr) := by
  have hopen := exec_pkinit (s := s) ((widthLegal_iff w).2 ⟨hw1, hw32⟩)
  rw [finish, respond_eq_withLog] at hopen
  generalize (s.pkStart w.toNat).trace ++ _ = tr₀ at hopen
  have hbits : 8 * 0 + 0 + S.length * w.toNat ≤ 8 * s.bufcap := by
    have hle := le_mul_bytesFor (S.length * w.toNat)
    omega
  obtain ⟨tr, hrest⟩ := execList_pkpush_pkflush ((pkStart_sound hwf hw32).withLog Err.ok.code tr₀)
    (Nat.ne_of_gt hw1) S hbits
  refine ⟨tr, ?_⟩
  rw [Pseudo.expand, List.append_assoc, List.singleton_append, execList_cons_of_next hopen, hrest,
    pkPushAll_withLog, pkFlush_withLog]
  rfl

/-- Pushes and the flush after them write `OBUF` and `OLEN` only, and leave the packer closed. -/
theorem pkFlush_pkPushAll_frame (s : State) (vs : List Int) :
    (s.pkPushAll vs).pkFlush =
      { s with
        obuf := (s.pkPushAll vs).pkFlush.obuf, olen := (s.pkPushAll vs).pkFlush.olen
        pkAcc := 0, pkCnt := 0, pkW := 0 } := by
  rw [pkFlush_frame, pkPushAll_frame]

/-- Settles O41: the commands run the procedures, and these emit the packed sequence from index 0 on. -/
theorem packCommandsComputePack : Obligations.PackCommandsComputePack := by
  intro s w S hw1 hw32 hwf hfit
  obtain ⟨tr, hexec⟩ := execList_pack S hw1 hw32 hwf hfit
  have hemit := pkFlush_pkPushAll_emitted (pkStart_sound hwf hw32) rfl (S.map BitVec.toInt)
  have hlen : (pack w.toNat (S.map BitVec.toInt)).length = (S.length * w.toNat + 7) / 8 := by
    rw [length_pack, List.length_map]
    rfl
  have holen := hemit.olen.trans (Nat.zero_add _)
  refine ⟨_, hexec, holen.trans hlen, ?_, fun a ha => hemit.frame a (.inr ha), hemit.wf,
    congrArg (State.withLog · 0 tr) (pkFlush_pkPushAll_frame _ _)⟩
  exact (congrArg _ holen).trans hemit.bytes

end Sys2Proof.Machine

/-! The unpacker commands (spec/40_bitpack.md R85 to R89): what `UPPOP` answers, and `UNPACK` as a run of pops. Between
two pops the unpacker holds the bits of the bytes read that follow the last value returned. -/

namespace Sys2Proof.Machine

/-! ### The commands with their checks decided -/

/-- The unpacker opened at width `w` on the first `size` bytes (R88). -/
def State.upStart (s : State) (w size : Nat) : State := State.upInit { s with ilen := size, iptr := 0 } w

section
variable {s : State}

theorem exec_upinit {w : BitVec 8} {size : Value} (hw : widthLegal w = true) (hs : size.toNat ≤ s.bufcap) :
    exec (.upinit w size) s = finish 0 0 (s.upStart w.toNat size.toNat) :=
  (if_neg (by simp [hw])).trans (if_neg (Nat.not_lt.2 hs))

theorem exec_uppop_value {v : Int} (ho : s.upW ≠ 0) (hv : s.upPop.1 = some v) :
    exec .uppop s = finish 0 (u32 v) s.upPop.2 := by
  rw [exec, execUppop, if_neg ho]
  rcases hpop : s.upPop with ⟨o, t⟩
  rw [hpop] at hv
  obtain rfl : o = some v := hv
  rfl

theorem exec_uppop_end (ho : s.upW ≠ 0) (hv : s.upPop.1 = none) :
    exec .uppop s = raise .endOfStream s.upPop.2 := by
  rw [exec, execUppop, if_neg ho]
  rcases hpop : s.upPop with ⟨o, t⟩
  rw [hpop] at hv
  obtain rfl : o = none := hv
  rfl

/-- Every byte is read and the value is not complete. -/
structure State.Dry (s : State) : Prop where
  short : s.upCnt < s.upW
  ended : s.iptr = s.ilen

theorem State.Dry.upPop_eq (h : s.Dry) : s.upPop = (none, s) := by
  have hshort := h.short
  obtain ⟨fuel, hfuel⟩ : ∃ fuel, s.upW = fuel + 1 := ⟨s.upW - 1, by omega⟩
  have hfetch : State.upFetch s.upW s = (false, s) := by
    rw [hfuel, State.upFetch, if_neg (by omega), if_pos h.ended]
  rw [State.upPop, hfetch]

/-- At the end of the stream `UPPOP` fails and reads nothing. -/
theorem State.Dry.exec_uppop (h : s.Dry) : exec .uppop s = raise .endOfStream s := by
  have hpop := h.upPop_eq
  rw [exec_uppop_end (Nat.ne_of_gt (Nat.zero_lt_of_lt h.short)) (by rw [hpop]), hpop]

theorem State.Dry.respond (h : s.Dry) (e : Err) (aux : BitVec 8) (val : Value) : (s.respond e aux val).Dry :=
  ⟨h.short, h.ended⟩

end

/-- Settles O42: the width and the size are legal, so the unpacker is opened on the stream. -/
theorem upinitOpensTheUnpacker : Obligations.UpinitOpensTheUnpacker :=
  fun _ w _ hw1 hw32 hs => exec_upinit ((widthLegal_iff w).2 ⟨hw1, hw32⟩) hs

theorem State.UnpackerInv.upCnt_le {s : State} (h : s.UnpackerInv) : s.upCnt ≤ 31 := by
  obtain ⟨hwidth, hcount, -⟩ := h
  omega

/-- Settles O43: the bits suffice exactly when the bytes that are needed are left, and then `upPop_spec` gives the
value. -/
theorem uppopReturnsTheNextField : Obligations.UppopReturnsTheNextField := by
  intro s h ho hbits
  have hcount := h.upCnt_le
  obtain ⟨hwidth, -, -, hzeros, hptr, -, -⟩ := h
  have henough : s.upNeed ≤ s.upLeft := by
    unfold State.upNeed State.upLeft
    omega
  obtain ⟨hiptr, hcnt, hz, x, hx, hxlt, hnum⟩ := (upPop_spec s hwidth (by omega) hzeros hptr).1 henough
  exact ⟨_, x, exec_uppop_value ho hx, hxlt, hnum, hiptr, hcnt, hz,
    congrArg (State.respond · .ok 0 _) (upPop_frame s)⟩

/-- Settles O44: a pop that fails leaves the unpacker dry, and a dry one fails without a change. -/
theorem uppopAtTheEndKeepsWhatItRead : Obligations.UppopAtTheEndKeepsWhatItRead := by
  intro s h ho hbits
  have hcount := h.upCnt_le
  obtain ⟨hwidth, -, -, hzeros, hptr, -, -⟩ := h
  have hshort : s.upLeft < s.upNeed := by
    unfold State.upNeed State.upLeft
    omega
  obtain ⟨hnone, hiptr, hcnt, hz, hnum⟩ := (upPop_spec s hwidth (by omega) hzeros hptr).2 hshort
  have hdry : s.upPop.2.Dry := by
    refine ⟨?_, by rw [upPop_ilen, hiptr]⟩
    rw [upPop_upW, hcnt]
    exact hbits
  exact ⟨_, exec_uppop_end ho hnone, hiptr, hcnt, hnum, hz,
    congrArg (State.respond · .endOfStream 0 0) (upPop_frame s), (hdry.respond .endOfStream 0 0).exec_uppop⟩

/-! ### The stream as a number -/

/-- A field lies in the bytes up to its end. -/
theorem fieldAt_append {X : List Byte} (Z : List Byte) {w k : Nat} (hk : (k + 1) * w ≤ 8 * X.length) :
    fieldAt (X ++ Z) w k = fieldAt X w k := by
  have hlt := bytesValue_lt Z
  have hpow : 2 ^ (8 * Z.length) = 256 ^ Z.length := Nat.pow_mul 2 8 _
  have hpos : 8 * (X ++ Z).length - (k + 1) * w = 8 * Z.length + (8 * X.length - (k + 1) * w) := by
    rw [List.length_append]
    omega
  rw [fieldAt, fieldAt, hpos, Nat.pow_add, hpow, ← Nat.div_div_eq_div_mul, bytesValue_append, Nat.mul_comm,
    Nat.mul_add_div (by positivity), Nat.div_eq_of_lt hlt, Nat.add_zero]

/-- The last `c` bits of `B` followed by the `8 * m` bits of `R` are `x` in its `w` bits followed by `p` in its `d`:
then `p` and `x` are the digits of `B` followed by `R`. -/
theorem digits_of_low_bits {B R x p c d w m : Nat} (hx : x < 2 ^ w) (hp : p < 2 ^ d) (hbits : c + 8 * m = w + d)
    (h : x * 2 ^ d + p = B % 2 ^ c * 256 ^ m + R) :
    (B * 256 ^ m + R) % 2 ^ d = p ∧ (B * 256 ^ m + R) / 2 ^ d % 2 ^ w = x := by
  have hpow : 2 ^ c * 256 ^ m = 2 ^ w * 2 ^ d := by
    rw [show (256 : Nat) = 2 ^ 8 from rfl, ← Nat.pow_mul, ← Nat.pow_add, ← Nat.pow_add, hbits]
  have hsplit : B * 256 ^ m + R = 2 ^ d * (2 ^ w * (B / 2 ^ c) + x) + p := by
    calc B * 256 ^ m + R
        = (2 ^ c * (B / 2 ^ c) + B % 2 ^ c) * 256 ^ m + R := by rw [Nat.div_add_mod]
      _ = 2 ^ c * 256 ^ m * (B / 2 ^ c) + (B % 2 ^ c * 256 ^ m + R) := by ring
      _ = 2 ^ d * (2 ^ w * (B / 2 ^ c) + x) + p := by rw [hpow, ← h]; ring
  rw [hsplit, Nat.mul_add_mod, Nat.mod_eq_of_lt hp, Nat.mul_add_div (by positivity), Nat.div_eq_of_lt hp,
    Nat.add_zero, Nat.mul_add_mod, Nat.mod_eq_of_lt hx]
  exact ⟨rfl, rfl⟩

/-! ### A run of pops -/

/-- `j` values of the stream that starts at `IBUF[a]` have been popped: the valid bits are the last ones of the bytes
read, fewer than 8. -/
structure State.Popped (s : State) (a j : Nat) : Prop where
  width : s.upW ≤ 32
  count : s.upCnt ≤ 7
  bits : 8 * s.iptr = 8 * a + j * s.upW + s.upCnt
  zeros : s.upAcc.toNat % 2 ^ (40 - s.upCnt) = 0
  pending : s.upPending = bytesValue (s.ibuf.slice a (s.iptr - a)) % 2 ^ s.upCnt
  bound : s.iptr ≤ s.ilen

/-- Value `i` of the stream `IBUF[a .. ILEN−1]` at the unpacker's width (R74). -/
def State.streamValue (s : State) (a i : Nat) : Int :=
  dec s.upW (fieldAt (s.ibuf.slice a (s.ilen - a)) s.upW i)

/-- The two states read the same stream. -/
structure SameStream (s t : State) : Prop where
  width : t.upW = s.upW
  ilen : t.ilen = s.ilen
  ibuf : t.ibuf = s.ibuf

theorem SameStream.refl (s : State) : SameStream s s := ⟨rfl, rfl, rfl⟩

theorem SameStream.trans {s t u : State} (h : SameStream s t) (h' : SameStream t u) : SameStream s u :=
  ⟨h'.width.trans h.width, h'.ilen.trans h.ilen, h'.ibuf.trans h.ibuf⟩

theorem SameStream.streamValue {s t : State} (h : SameStream s t) (a i : Nat) :
    t.streamValue a i = s.streamValue a i := by
  rw [State.streamValue, State.streamValue, h.width, h.ilen, h.ibuf]

theorem upPop_sameStream (s : State) (e : Err) (aux : BitVec 8) (val : Value) :
    SameStream s (s.upPop.2.respond e aux val) :=
  ⟨upPop_upW s, upPop_ilen s, upPop_ibuf s⟩

section
variable {s : State} {a j : Nat}

theorem upInit_popped (h : s.iptr ≤ s.ilen) {w : Nat} (hw : w ≤ 32) : (s.upInit w).Popped s.iptr 0 := by
  refine ⟨hw, Nat.zero_le 7, by simp, Nat.zero_mod _, ?_, h⟩
  rw [upInit_upCnt, Nat.pow_zero, Nat.mod_one]
  exact Nat.zero_div _

theorem State.Popped.respond (h : s.Popped a j) (e : Err) (aux : BitVec 8) (val : Value) :
    (s.respond e aux val).Popped a j :=
  ⟨h.width, h.count, h.bits, h.zeros, h.pending, h.bound⟩

/-- With the bits of one more value left, a pop returns it. -/
theorem State.Popped.upPop (h : s.Popped a j) (hfit : 8 * a + (j + 1) * s.upW ≤ 8 * s.ilen) :
    s.upPop.1 = some (s.streamValue a j) ∧ s.upPop.2.Popped a (j + 1) := by
  obtain ⟨hwidth, hcount, hbits, hzeros, hpending, hbound⟩ := h
  have hsucc := Nat.succ_mul j s.upW
  rw [Nat.succ_eq_add_one] at hsucc
  have henough : s.upNeed ≤ s.upLeft := by
    unfold State.upNeed State.upLeft
    omega
  obtain ⟨hiptr, hcnt, hz, x, hx, hxlt, hnum⟩ := (upPop_spec s hwidth (by omega) hzeros hbound).1 henough
  have hneed : s.upW ≤ s.upCnt + 8 * s.upNeed ∧ s.upCnt + 8 * s.upNeed ≤ s.upW + 7 := by
    unfold State.upNeed
    omega
  have hread : s.ibuf.slice a (s.upPop.2.iptr - a) =
      s.ibuf.slice a (s.iptr - a) ++ s.ibuf.slice s.iptr s.upNeed := by
    rw [hiptr, show s.iptr + s.upNeed - a = (s.iptr - a) + s.upNeed by omega, Memory.slice_add,
      Nat.add_sub_cancel' (by omega)]
  have hvalue : bytesValue (s.ibuf.slice a (s.upPop.2.iptr - a)) =
      bytesValue (s.ibuf.slice a (s.iptr - a)) * 256 ^ s.upNeed + bytesValue (s.ibuf.slice s.iptr s.upNeed) := by
    rw [hread, bytesValue_append, Memory.length_slice]
  rw [hpending] at hnum
  obtain ⟨hlow, hhigh⟩ := digits_of_low_bits hxlt (pending_lt s.upPop.2.upAcc (by omega)) (by omega) hnum
  rw [← hvalue] at hlow hhigh
  have hbits' : 8 * s.upPop.2.iptr = 8 * a + (j + 1) * s.upW + s.upPop.2.upCnt := by omega
  have hbound' := upPop_iptr_le s hbound
  have hfield : fieldAt (s.ibuf.slice a (s.ilen - a)) s.upW j = x := by
    rw [show s.ilen - a = (s.upPop.2.iptr - a) + (s.ilen - s.upPop.2.iptr) by omega, Memory.slice_add,
      fieldAt_append _ (by rw [Memory.length_slice]; omega), fieldAt, Memory.length_slice,
      show 8 * (s.upPop.2.iptr - a) - (j + 1) * s.upW = s.upPop.2.upCnt by omega, hhigh]
  refine ⟨by rw [hx, State.streamValue, hfield], ?_⟩
  refine ⟨?_, by omega, ?_, hz, ?_, ?_⟩
  · rw [upPop_upW]; exact hwidth
  · rw [upPop_upW]; exact hbits'
  · rw [upPop_ibuf]; exact hlow.symm
  · rw [upPop_ilen]; exact hbound'

/-- With fewer bits left, a pop fails and leaves the unpacker dry. -/
theorem State.Popped.upPop_dry (h : s.Popped a j) (hfit : 8 * s.ilen < 8 * a + (j + 1) * s.upW) :
    s.upPop.1 = none ∧ s.upPop.2.Dry := by
  obtain ⟨hwidth, hcount, hbits, hzeros, -, hbound⟩ := h
  rw [Nat.succ_mul j] at hfit
  have hshort : s.upLeft < s.upNeed := by
    unfold State.upNeed State.upLeft
    omega
  obtain ⟨hnone, hiptr, hcnt, -, -⟩ := (upPop_spec s hwidth (by omega) hzeros hbound).2 hshort
  refine ⟨hnone, ?_, by rw [upPop_ilen, hiptr]⟩
  rw [upPop_upW, hcnt]
  unfold State.upLeft
  omega

end

/-- Pops whose bits are all there answer the values in order. -/
theorem execList_uppop_values {s : State} {a j : Nat} (h : s.Popped a j) (ho : s.upW ≠ 0) (m : Nat)
    (hfit : 8 * a + (j + m) * s.upW ≤ 8 * s.ilen) :
    ∃ t, execList (List.replicate m .uppop) s = .next t ∧ t.Popped a (j + m) ∧ SameStream s t ∧
      t.trace = s.trace ++ (List.range' j m).map fun i => responseWord .ok 0 (u32 (s.streamValue a i)) := by
  induction m generalizing s j with
  | zero => exact ⟨s, rfl, h, .refl s, (List.append_nil _).symm⟩
  | succ m ih =>
    have hone : (j + 1) * s.upW ≤ (j + (m + 1)) * s.upW := Nat.mul_le_mul_right _ (by omega)
    obtain ⟨hv, hpopped⟩ := h.upPop (by omega)
    have hexec := exec_uppop_value ho hv
    have hsame := upPop_sameStream s .ok 0 (u32 (s.streamValue a j))
    rw [show j + (m + 1) = j + 1 + m by omega] at hfit ⊢
    obtain ⟨t, hrun, ht, hsame', htrace⟩ := ih (hpopped.respond .ok 0 (u32 (s.streamValue a j)))
      (by rw [hsame.width]; exact ho) (by rw [hsame.width, hsame.ilen]; exact hfit)
    refine ⟨t, ?_, ht, hsame.trans hsame', ?_⟩
    · rw [List.replicate_succ, execList_cons_of_next hexec, hrun]
    · rw [htrace, respond_trace, upPop_trace, List.range'_succ, List.map_cons, List.append_assoc,
        List.singleton_append]
      simp only [hsame.streamValue]

/-- Pops of a dry unpacker all answer `EndOfStream`. -/
theorem execList_uppop_dry {s : State} (h : s.Dry) (m : Nat) :
    ∃ t, execList (List.replicate m .uppop) s = .next t ∧ t.iptr = s.ilen ∧ SameStream s t ∧
      t.trace = s.trace ++ List.replicate m (responseWord .endOfStream 0 0) := by
  induction m generalizing s with
  | zero => exact ⟨s, rfl, h.ended, .refl s, (List.append_nil _).symm⟩
  | succ m ih =>
    obtain ⟨t, hrun, hiptr, ⟨hwidth, hilen, hibuf⟩, htrace⟩ := ih (h.respond .endOfStream 0 0)
    refine ⟨t, ?_, hiptr, ⟨hwidth, hilen, hibuf⟩, ?_⟩
    · rw [List.replicate_succ, execList_cons_of_next h.exec_uppop, hrun]
    · rw [htrace, respond_trace, List.append_assoc, List.replicate_succ, List.singleton_append]

/-- Pops past the last complete value all answer `EndOfStream`. -/
theorem execList_uppop_end {s : State} {a j : Nat} (h : s.Popped a j) (ho : s.upW ≠ 0) (m : Nat)
    (hfit : 8 * s.ilen < 8 * a + (j + 1) * s.upW) :
    ∃ t, execList (List.replicate (m + 1) .uppop) s = .next t ∧ t.iptr = s.ilen ∧ SameStream s t ∧
      t.trace = s.trace ++ List.replicate (m + 1) (responseWord .endOfStream 0 0) := by
  obtain ⟨hnone, hdry⟩ := h.upPop_dry hfit
  have hsame := upPop_sameStream s .endOfStream 0 0
  obtain ⟨t, hrun, hiptr, hsame', htrace⟩ := execList_uppop_dry (hdry.respond .endOfStream 0 0) m
  refine ⟨t, ?_, hiptr.trans hsame.ilen, hsame.trans hsame', ?_⟩
  · rw [List.replicate_succ, execList_cons_of_next (exec_uppop_end ho hnone), hrun]
  · rw [htrace, respond_trace, upPop_trace, List.append_assoc, List.replicate_succ, List.singleton_append]

theorem execList_append_of_next {is : List Instr} {s t : State} (h : execList is s = .next t) (js : List Instr) :
    execList (is ++ js) s = execList js t := by
  induction is generalizing s with
  | nil =>
    obtain rfl := Host.Outcome.next.inj h
    rfl
  | cons i is ih =>
    obtain ⟨u, e, aux, val, hexec, -, -⟩ := answers_exec i s
    rw [execList_cons_of_next hexec] at h
    rw [List.cons_append, execList_cons_of_next hexec, ih h]

/-- `UNPACK` of as many values as the stream holds answers them in order. -/
theorem execList_unpack_values {s : State} {w : BitVec 8} {size : Value} {k : Nat} (hw1 : 1 ≤ w.toNat)
    (hw32 : w.toNat ≤ 32) (hs : size.toNat ≤ s.bufcap) (hfit : k * w.toNat ≤ 8 * size.toNat) :
    ∃ t, execList (Pseudo.unpack w size k).expand s = .next t ∧ t.Popped 0 k ∧
      t.upW = w.toNat ∧ t.ilen = size.toNat ∧ t.ibuf = s.ibuf ∧
      t.trace = s.trace ++ [0] ++ ((List.range k).map fun i =>
        dec w.toNat (fieldAt (s.ibuf.slice 0 size.toNat) w.toNat i)).map
          fun v => responseWord .ok 0 (BitVec.ofInt 32 v) := by
  have hopen := exec_upinit (s := s) ((widthLegal_iff w).2 ⟨hw1, hw32⟩) hs
  have ho : (s.upStart w.toNat size.toNat).upW ≠ 0 := Nat.ne_of_gt hw1
  have hstart : ((s.upStart w.toNat size.toNat).respond .ok 0 0).Popped 0 0 :=
    (upInit_popped (s := { s with ilen := size.toNat, iptr := 0 }) (Nat.zero_le _) hw32).respond .ok 0 0
  obtain ⟨t, hrun, hpopped, ⟨hwidth, hilen, hibuf⟩, htrace⟩ :=
    execList_uppop_values hstart ho k (by rw [Nat.mul_zero, Nat.zero_add, Nat.zero_add]; exact hfit)
  rw [Nat.zero_add] at hpopped
  refine ⟨t, (execList_cons_of_next hopen _).trans hrun, hpopped, hwidth, hilen, hibuf, ?_⟩
  rw [htrace, List.map_map, List.range_eq_range']
  rfl

/-- More pops come after those before them. -/
theorem expand_unpack_add (w : BitVec 8) (size : Value) (k m : Nat) :
    (Pseudo.unpack w size (k + m)).expand = (Pseudo.unpack w size k).expand ++ List.replicate m .uppop := by
  rw [Pseudo.expand, Pseudo.expand, List.cons_append, List.replicate_append_replicate]

/-- Settles O45: the first `k` pops return the values of the stream, those after them meet its end. -/
theorem unpackCommandsComputeUnpack : Obligations.UnpackCommandsComputeUnpack := by
  intro s w size n k hw1 hw32 hs hk
  have hfit : k * w.toNat ≤ 8 * size.toNat :=
    (Nat.mul_le_mul_right _ (by omega)).trans (Nat.div_mul_le_self _ _)
  have hvalues : unpack w.toNat k (s.ibuf.slice 0 size.toNat) =
      some ((List.range k).map fun i => dec w.toNat (fieldAt (s.ibuf.slice 0 size.toNat) w.toNat i)) :=
    if_pos (by rw [Memory.length_slice]; exact hfit)
  obtain ⟨t, hrun, hpopped, hwidth, hilen, hibuf, htrace⟩ := execList_unpack_values hw1 hw32 hs hfit
  obtain ⟨m, rfl⟩ : ∃ m, n = k + m := ⟨n - k, by omega⟩
  cases m with
  | zero =>
    have hbits := hpopped.bits
    have hcount := hpopped.count
    rw [hwidth] at hbits
    refine ⟨t, _, hrun, hvalues, ?_, fun _ => ?_, fun hlt => absurd hlt (Nat.lt_irrefl k), hwidth, hilen, hibuf⟩
    · rw [htrace, Nat.add_zero, Nat.sub_self, List.replicate_zero, List.append_nil]
    · change t.iptr = (k * w.toNat + 7) / 8 ∧ t.upCnt = 8 * t.iptr - k * w.toNat
      omega
  | succ m =>
    have hend : 8 * size.toNat < (k + 1) * w.toNat := (Nat.div_lt_iff_lt_mul hw1).1 (by omega)
    obtain ⟨u, hrun', hiptr, hsame, htrace'⟩ := execList_uppop_end hpopped (by omega) m
      (by rw [hwidth, hilen, Nat.mul_zero, Nat.zero_add]; exact hend)
    refine ⟨u, _, ?_, hvalues, ?_, fun heq => absurd heq (by omega), fun _ => hiptr.trans hilen,
      hsame.width.trans hwidth, hsame.ilen.trans hilen, hsame.ibuf.trans hibuf⟩
    · rw [expand_unpack_add, execList_append_of_next hrun, hrun']
    · rw [htrace', htrace, Nat.add_sub_cancel_left]
      rfl

end Sys2Proof.Machine

/-! The accumulators suffice (spec/40_bitpack.md R92). Between commands the packer's count is a multiple of the width
modulo 8, and the unpacker's differs from one by whole bytes: at width 32 both counts are multiples of 8 and no sum
passes 32, at every other width 31 + 7 = 38 is the bound. -/

namespace Sys2Proof.Machine

/-! ### The packer's count -/

theorem pkPushAll_pkCnt (s : State) (vs : List Int) (h : s.pkCnt < 8) :
    (s.pkPushAll vs).pkCnt = (s.pkCnt + vs.length * s.pkW) % 8 := by
  induction vs generalizing s with
  | nil => rw [List.length_nil, Nat.zero_mul, Nat.add_zero, Nat.mod_eq_of_lt h, State.pkPushAll]
  | cons v vs ih =>
    have hcnt := pkPush_pkCnt s v
    rw [State.pkPushAll, ih _ (by omega), hcnt, pkPush_pkW, Nat.mod_add_mod, List.length_cons, Nat.succ_mul,
      Nat.add_assoc, Nat.add_comm s.pkW]

section
variable {s : State}

theorem State.PackerInv.pkCnt_le (h : s.PackerInv) : s.pkCnt ≤ 7 := by
  obtain ⟨-, ⟨k, hcount⟩, -⟩ := h
  omega

/-- At width 32 no bits are pending between commands. -/
theorem State.PackerInv.pkCnt_of_32 (h : s.PackerInv) (hw : s.pkW = 32) : s.pkCnt = 0 := by
  obtain ⟨-, ⟨k, hcount⟩, -⟩ := h
  rw [hw] at hcount
  omega

theorem State.PackerInv.pkPlace_le (h : s.PackerInv) (v : Int) : (s.pkPlace v).pkCnt ≤ 38 := by
  have hcount := h.pkCnt_le
  have h32 := h.pkCnt_of_32
  obtain ⟨hwidth, -⟩ := h
  rw [pkPlace_pkCnt]
  omega

/-- The widths at which some count of pending bits takes the accumulator past 32. -/
theorem State.PackerInv.width_of_count_passing_32 (h : s.PackerInv) (hpass : 32 < s.pkCnt + s.pkW) :
    s.pkW = 27 ∨ s.pkW = 29 ∨ s.pkW = 30 ∨ s.pkW = 31 := by
  have hcount := h.pkCnt_le
  obtain ⟨hwidth, ⟨k, hk⟩, -⟩ := h
  have hlow : 26 ≤ s.pkW := by omega
  generalize s.pkW = w at *
  interval_cases w <;> omega

/-! ### The unpacker's count -/

/-- At width 32 the count is of whole bytes. -/
theorem State.UnpackerInv.upCnt_of_32 (h : s.UnpackerInv) (hw : s.upW = 32) : s.upCnt % 8 = 0 := by
  obtain ⟨-, -, -, -, -, -, k, hk⟩ := h
  rw [hw] at hk
  omega

theorem State.UnpackerInv.upFetch_le (h : s.UnpackerInv) (fuel : Nat) : (State.upFetch fuel s).2.upCnt ≤ 38 := by
  have h32 := h.upCnt_of_32
  have hcount := h.upCnt_le
  obtain ⟨hwidth, -⟩ := h
  obtain ⟨j, -, hcnt, hread⟩ := upFetch_upCnt fuel s
  have hlast : j = 0 ∨ s.upCnt + 8 * (j - 1) < s.upW := by
    rcases Nat.eq_zero_or_pos j with h0 | hpos
    · exact .inl h0
    · exact .inr (hread (j - 1) (by omega))
  rw [hcnt]
  omega

end

/-! ### States that reach the bounds -/

/-- An engine of one pixel with `k` values of width `w` packed, all zeros. -/
def packedZeros (w k : Nat) : State := { State.resetWith 1 with pkW := w, pkCnt := k * w % 8 }

theorem packedZeros_packerInv {w : Nat} (hw : w ≤ 32) (k : Nat) : (packedZeros w k).PackerInv :=
  ⟨hw, ⟨k, rfl⟩, Nat.zero_mod _, Nat.zero_le _⟩

/-- An engine of one pixel with six values of width 31 taken from a stream of zeros, so that 6 bits are valid, and four
bytes left. -/
def unpackedZeros : State := { State.resetWith 1 with upW := 31, upCnt := 6, ilen := 4 }

theorem unpackedZeros_unpackerInv : unpackedZeros.UnpackerInv :=
  ⟨by decide, by decide, by decide, by decide, by decide, by decide, 6, by decide⟩

/-- Each of the four widths has a number of values after which the next one takes the count past 32. -/
theorem exists_count_passing_32 {w : Nat} (hw : w = 27 ∨ w = 29 ∨ w = 30 ∨ w = 31) : ∃ k, 32 < k * w % 8 + w := by
  rcases hw with rfl | rfl | rfl | rfl
  · exact ⟨5, by decide⟩
  · exact ⟨3, by decide⟩
  · exact ⟨1, by decide⟩
  · exact ⟨1, by decide⟩

/-- Settles O46: the counts add up as the invariants say, and the states above reach the bounds. -/
theorem accumulatorBounds : Obligations.AccumulatorBounds := by
  refine ⟨fun s w vs => ?_, fun s v h => ?_, fun s h k => h.upFetch_le k, fun w v _ hw32 => ⟨?_, fun hw => ?_⟩,
    fun v => ⟨packedZeros 31 1, packedZeros_packerInv (by decide) 1, rfl, rfl⟩,
    unpackedZeros, unpackedZeros_unpackerInv, rfl, rfl⟩
  · rw [pkPushAll_pkCnt _ _ (by rw [pkInit_pkCnt]; decide), pkInit_pkCnt, pkInit_pkW, Nat.zero_add]
  · refine ⟨h.pkCnt_le, fun hw => ?_, fun k => (pkDrain_pkCnt_le _ _).trans (h.pkPlace_le v), ?_⟩
    · rw [pkPlace_pkCnt, h.pkCnt_of_32 hw, hw]
      exact ⟨rfl, rfl⟩
    · rw [pkPush_pkCnt]
      omega
  · rintro ⟨s, h, rfl, hpass⟩
    exact h.width_of_count_passing_32 hpass
  · obtain ⟨k, hk⟩ := exists_count_passing_32 hw
    exact ⟨packedZeros w k, packedZeros_packerInv hw32 k, rfl, hk⟩

end Sys2Proof.Machine

/-! A frame filled pixel by pixel (spec/20_memory.md R37), and the two commands that start a new file: `CINIT` and
`DINIT` (spec/41_codec.md R112, R113) fill a previous frame with zeros. -/

namespace Sys2Proof.Machine

/-! ### The raster index -/

section
variable {w h x : Nat}

theorem raster_lt_cells {y : Nat} (hy : y < h) (hx : x < w) : raster w y x < h * w :=
  calc y * w + x < y * w + w := Nat.add_lt_add_left hx _
    _ = (y + 1) * w := (Nat.succ_mul y w).symm
    _ ≤ h * w := Nat.mul_le_mul_right w hy

/-- The row and the column of a pixel are the quotient and the remainder of its raster index. -/
theorem raster_divMod (y : Nat) (hx : x < w) : raster w y x / w = y ∧ raster w y x % w = x :=
  (Nat.div_mod_unique (Nat.zero_lt_of_lt hx)).2 ⟨by rw [raster, Nat.mul_comm, Nat.add_comm], hx⟩

theorem raster_of_divMod (w i : Nat) : raster w (i / w) (i % w) = i := Nat.div_add_mod' i w

/-! ### A frame after a fill -/

/-- A loop over the rows and columns of a frame gives every pixel its value. -/
theorem pixel_fill {m : Memory 16} (hm : m.wf = true) (f : Nat → Pixel) {y : Nat} (hy : y < h) (hx : x < w) :
    pixel (Memory.fill m f (h * w)) w y x = f (raster w y x) := by
  rw [pixel, Memory.read_fill _ _ _ hm, if_pos (raster_lt_cells hy hx)]

end

theorem Memory.read_fill_of_le {k n a : Nat} {m : Memory k} (hm : m.wf = true) (f : Nat → BitVec k) (ha : n ≤ a) :
    (Memory.fill m f n).read a = m.read a := by
  rw [Memory.read_fill _ _ _ hm, if_neg (Nat.not_lt.2 ha)]

/-! ### A new file -/

/-- Settles O35: the loop writes zeros over the frame and no other cell. -/
theorem cinitStartsANewCompressor : Obligations.CinitStartsANewCompressor := by
  intro s hwf hc
  exact ⟨_, exec_cinit hc, fun _ _ hy hx => pixel_fill hwf _ hy hx, fun _ ha => Memory.read_fill_of_le hwf _ ha,
    Memory.wf_fill _ _ hwf, rfl⟩

/-- Settles O36: the loop writes zeros over the frame and no other cell. -/
theorem dinitStartsANewDecompressor : Obligations.DinitStartsANewDecompressor := by
  intro s hwf hc
  exact ⟨_, exec_dinit hc, fun _ _ hy hx => pixel_fill hwf _ hy hx, fun _ ha => Memory.read_fill_of_le hwf _ ha,
    Memory.wf_fill _ _ hwf, rfl⟩

end Sys2Proof.Machine

/-! The deltas and the width of `COMPRESS` (spec/41_codec.md R94 to R101). The width is at most `k + 1` exactly when
every adjacent delta is below `2^k` in absolute value; what R101 and R117 say of the width is read off from this. -/

namespace Sys2Proof.Machine

/-! ### The deltas -/

theorem length_deltas (s : State) : s.deltas.length = s.n := by simp [State.deltas]

/-- The delta at the snake index of a pixel is that pixel's (R95). -/
theorem deltaAt_snake (s : State) (y : Nat) {x : Nat} (hx : x < s.w) :
    s.deltaAt (snake s.w y x) = ((pixel s.fin s.w y x).toNat : Int) - ((pixel s.cprev s.w y x).toNat : Int) := by
  rw [State.deltaAt, unsnake_snake y hx]

theorem deltas_getD {s : State} {i : Nat} (hi : i < s.n) : s.deltas.getD i 0 = s.deltaAt i := by
  simp [State.deltas, List.getD_eq_getElem?_getD, hi]

/-- The snake index of a pixel of a configured frame is the index of a delta. -/
theorem State.GeometryInv.snake_lt {s : State} (h : s.GeometryInv) (hc : s.cfg = true) {y x : Nat} (hy : y < s.h)
    (hx : x < s.w) : snake s.w y x < s.n := by
  obtain ⟨-, -, -, -, hn, -⟩ := h.1 hc
  rw [hn]
  exact Machine.snake_lt hy hx

theorem deltas_getD_snake {s : State} (h : s.GeometryInv) (hc : s.cfg = true) {y x : Nat} (hy : y < s.h)
    (hx : x < s.w) :
    s.deltas.getD (snake s.w y x) 0 =
      ((pixel s.fin s.w y x).toNat : Int) - ((pixel s.cprev s.w y x).toNat : Int) := by
  rw [deltas_getD (h.snake_lt hc hy hx), deltaAt_snake s y hx]

/-- `A[i] = D[i+1] − D[i]` (R98). -/
theorem adjacent_getD {ds : List Int} {i : Nat} (hi : i + 1 < ds.length) :
    (adjacent ds).getD i 0 = ds.getD (i + 1) 0 - ds.getD i 0 := by
  induction ds using adjacent.induct generalizing i with
  | case1 d e ds ih =>
    rw [adjacent]
    cases i with
    | zero => rfl
    | succ i =>
      rw [List.getD_cons_succ, List.getD_cons_succ, List.getD_cons_succ]
      exact ih (Nat.lt_of_succ_lt_succ hi)
  | case2 ds hshort =>
    rcases ds with _ | ⟨d, _ | ⟨e, ds⟩⟩
    · exact absurd hi (Nat.not_lt_zero _)
    · exact absurd hi (by simp)
    · exact (hshort d e ds rfl).elim

/-- Settles O47: the place of a pixel on the snake leads back to the pixel, and a pixel is below `2^16`. -/
theorem deltasAreInSnakeOrder : Obligations.DeltasAreInSnakeOrder := by
  intro s h hc
  refine ⟨length_deltas s, length_adjacent_deltas s, fun y x hy hx => deltas_getD_snake h hc hy hx,
    fun i hi => adjacent_getD (by rwa [length_deltas]), fun d hd => ?_, fun a ha => ?_⟩
  · have hle := natAbs_le_of_mem_deltas hd
    omega
  · have hle := natAbs_le_of_mem_adjacent (fun _ => natAbs_le_of_mem_deltas) a ha
    omega

/-! ### The width -/

theorem le_foldl_max_natAbs (a : List Int) (m : Nat) :
    m ≤ a.foldl (fun m v => max m v.natAbs) m ∧ ∀ v ∈ a, v.natAbs ≤ a.foldl (fun m v => max m v.natAbs) m := by
  induction a generalizing m with
  | nil => simp
  | cons v a ih =>
    obtain ⟨hinit, hmem⟩ := ih (max m v.natAbs)
    rw [Nat.max_le] at hinit
    simp only [List.foldl_cons, List.forall_mem_cons]
    exact ⟨hinit.1, hinit.2, hmem⟩

theorem maxAbs_le_iff {a : List Int} {b : Nat} : maxAbs a ≤ b ↔ ∀ v ∈ a, v.natAbs ≤ b :=
  ⟨fun h v hv => ((le_foldl_max_natAbs a 0).2 v hv).trans h, foldl_max_natAbs_le (Nat.zero_le b)⟩

theorem bitlen_le_iff {m k : Nat} : bitlen m ≤ k ↔ m < 2 ^ k := by
  refine ⟨fun h => ?_, bitlen_le⟩
  rcases Nat.eq_zero_or_pos m with rfl | hpos
  · positivity
  · rw [bitlen, if_neg (Nat.ne_of_gt hpos)] at h
    exact (Nat.log2_lt (Nat.ne_of_gt hpos)).1 h

/-- The clamp of R100 never acts: the width is one more than the bits of the greatest adjacent delta. -/
theorem frameWidth_eq (s : State) : s.frameWidth = bitlen (maxAbs (adjacent s.deltas)) + 1 := by
  have hbounds := frameWidth_bounds s
  unfold State.frameWidth chooseWidth at hbounds ⊢
  omega

/-- The width is the least that holds every adjacent delta as a signed number (R117). -/
theorem frameWidth_le_iff (s : State) (k : Nat) :
    s.frameWidth ≤ k + 1 ↔ ∀ a ∈ adjacent s.deltas, a.natAbs < 2 ^ k := by
  have hpos : 0 < 2 ^ k := by positivity
  rw [frameWidth_eq, Nat.add_le_add_iff_right, bitlen_le_iff, ← Nat.le_sub_one_iff_lt hpos, maxAbs_le_iff]
  simp only [Nat.le_sub_one_iff_lt hpos]

theorem natAbs_lt_of_mem_adjacent_deltas {s : State} {a : Int} (ha : a ∈ adjacent s.deltas) :
    a.natAbs < 2 ^ (s.frameWidth - 1) :=
  (frameWidth_le_iff s _).1 (by omega) a ha

theorem wrap_eq_self_of_natAbs_lt {w : Nat} (hw : 1 ≤ w) {v : Int} (hv : v.natAbs < 2 ^ (w - 1)) : wrap w v = v :=
  (wrap_eq_self_iff hw).2 (by omega)

theorem frameWidth_eq_one_iff (s : State) : s.frameWidth = 1 ↔ ∀ a ∈ adjacent s.deltas, a = 0 := by
  have hle := frameWidth_le_iff s 0
  simp only [Nat.pow_zero, Nat.lt_one_iff, Int.natAbs_eq_zero] at hle
  rw [← hle]
  have hpos := (frameWidth_bounds s).1
  omega

/-- Settles O48: every clause is `frameWidth_le_iff` at some `k`; a value below `2^(w-1)` fits a `w`-bit field. -/
theorem chosenWidthHoldsEveryDelta : Obligations.ChosenWidthHoldsEveryDelta := by
  intro s
  obtain ⟨hpos, h18⟩ := frameWidth_bounds s
  refine ⟨hpos, h18, frameWidth_eq_one_iff s, fun h2 => ?_, fun a ha => ?_⟩
  · by_contra hnone
    push Not at hnone
    have hle := (frameWidth_le_iff s (s.frameWidth - 2)).2 hnone
    omega
  · have hlt := natAbs_lt_of_mem_adjacent_deltas ha
    exact ⟨hlt, by rw [dec_enc hpos, wrap_eq_self_of_natAbs_lt hpos hlt]⟩

end Sys2Proof.Machine

/-! The extremes of the interior (spec/41_codec.md R97): the two loops over the interior pixels end with one of them,
or with their start values when there is none. -/

namespace Sys2Proof.Machine

/-! ### The interior -/

theorem interior_raster {w x : Nat} (h y : Nat) (hx : x < w) :
    interior w h (raster w y x) = true ↔ 1 ≤ y ∧ y + 2 ≤ h ∧ 1 ≤ x ∧ x + 2 ≤ w := by
  obtain ⟨hrow, hcol⟩ := raster_divMod y hx
  rw [interior, hrow, hcol, decide_eq_true_eq]

theorem mem_interiorPixels {s : State} {p : Pixel} :
    p ∈ s.interiorPixels ↔
      ∃ y x, 1 ≤ y ∧ y + 2 ≤ s.h ∧ 1 ≤ x ∧ x + 2 ≤ s.w ∧ pixel s.fin s.w y x = p := by
  simp only [State.interiorPixels, List.mem_map, List.mem_filter, List.mem_range]
  constructor
  · rintro ⟨i, ⟨-, hin⟩, rfl⟩
    obtain ⟨hy1, hy2, hx1, hx2⟩ := of_decide_eq_true hin
    exact ⟨i / s.w, i % s.w, hy1, hy2, hx1, hx2, by rw [pixel, raster_of_divMod]⟩
  · rintro ⟨y, x, hy1, hy2, hx1, hx2, rfl⟩
    have hx : x < s.w := by omega
    exact ⟨raster s.w y x, ⟨raster_lt_cells (by omega) hx, (interior_raster s.h y hx).2 ⟨hy1, hy2, hx1, hx2⟩⟩, rfl⟩

/-- A frame has an interior from three rows and three columns on. -/
theorem interiorPixels_ne_nil_iff (s : State) : s.interiorPixels ≠ [] ↔ 3 ≤ s.h ∧ 3 ≤ s.w := by
  constructor
  · intro hne
    obtain ⟨p, hp⟩ := List.exists_mem_of_ne_nil _ hne
    obtain ⟨y, x, hy1, hy2, hx1, hx2, -⟩ := mem_interiorPixels.1 hp
    omega
  · rintro ⟨hh, hw⟩
    have hp := mem_interiorPixels.2 ⟨1, 1, le_rfl, hh, le_rfl, hw, rfl⟩
    exact List.ne_nil_of_mem hp

/-! ### The loops -/

/-- A loop that keeps what it has or takes the next value ends with one of them. -/
theorem foldl_mem_of_choice {α : Type} {f : α → α → α} (hf : ∀ a b, f a b = a ∨ f a b = b) (m : α) (ps : List α) :
    ps.foldl f m ∈ m :: ps := by
  induction ps generalizing m with
  | nil => exact List.mem_cons_self
  | cons c ps ih =>
    rw [List.foldl_cons]
    rcases List.mem_cons.1 (ih (f m c)) with heq | hmem
    · rw [heq]
      rcases hf m c with h | h <;> simp [h]
    · exact List.mem_cons_of_mem m (List.mem_cons_of_mem c hmem)

/-- The first pixel replaces `0xFFFF`, or is `0xFFFF` itself. -/
theorem minFrom_cons (p : Pixel) (ps : List Pixel) :
    minFrom (p :: ps) = ps.foldl (fun m c => if c.toNat < m.toNat then c else m) p := by
  rw [minFrom, List.foldl_cons]
  congr 1
  have hp := p.isLt
  split
  · rfl
  next hge =>
    have hge' : ¬ p.toNat < 65535 := hge
    exact BitVec.eq_of_toNat_eq (show 65535 = p.toNat by omega)

theorem maxFrom_cons (p : Pixel) (ps : List Pixel) :
    maxFrom (p :: ps) = ps.foldl (fun m c => if m.toNat < c.toNat then c else m) p := by
  rw [maxFrom, List.foldl_cons]
  congr 1
  split
  · rfl
  next hle =>
    have hle' : ¬ 0 < p.toNat := hle
    exact BitVec.eq_of_toNat_eq (show 0 = p.toNat by omega)

theorem minFrom_mem {ps : List Pixel} (hne : ps ≠ []) : minFrom ps ∈ ps := by
  obtain ⟨p, ps, rfl⟩ := List.exists_cons_of_ne_nil hne
  rw [minFrom_cons]
  exact foldl_mem_of_choice (fun m c => (ite_eq_or_eq _ c m).symm) p ps

theorem maxFrom_mem {ps : List Pixel} (hne : ps ≠ []) : maxFrom ps ∈ ps := by
  obtain ⟨p, ps, rfl⟩ := List.exists_cons_of_ne_nil hne
  rw [maxFrom_cons]
  exact foldl_mem_of_choice (fun m c => (ite_eq_or_eq _ c m).symm) p ps

/-- `MINPIX ≤ MAXPIX` shows that there was a pixel (R104 (e)). -/
theorem minFrom_le_maxFrom_iff (ps : List Pixel) : (minFrom ps).toNat ≤ (maxFrom ps).toNat ↔ ps ≠ [] := by
  constructor
  · rintro hle rfl
    exact absurd hle (by decide)
  · intro hne
    obtain ⟨p, hp⟩ := List.exists_mem_of_ne_nil ps hne
    exact (minFrom_le hp).trans (le_maxFrom hp)

end Sys2Proof.Machine

/-! The state after `COMPRESS` (spec/41_codec.md R97, R103, R104, R118), read off from what the pipeline leaves. -/

namespace Sys2Proof.Machine

theorem compressed_trace (s : State) : s.compressed.trace = s.trace := by rw [compressed_frame]

theorem compressed_fin (s : State) : s.compressed.fin = s.fin := by rw [compressed_frame]

/-- `CPREV = FIN` on the frame (R96). -/
theorem compressed_cprev_pixel {s : State} (hwf : s.cprev.wf = true) {y x : Nat} (hy : y < s.h) (hx : x < s.w) :
    pixel s.compressed.cprev s.w y x = pixel s.fin s.w y x := by
  rw [compressed_frame]
  exact pixel_fill hwf _ hy hx

/-- The response of `COMPRESS` on the pipeline's state, field by field. -/
theorem compressed_respond_frame (s : State) (aux : BitVec 8) (val : Value) :
    s.compressed.respond .ok aux val =
      { s with
        cprev := s.compressed.cprev, obuf := s.compressed.obuf, olen := s.compressed.olen
        pkW := 0, pkAcc := 0, pkCnt := 0
        cwidth := s.compressed.cwidth, csize := s.compressed.csize
        minPix := s.compressed.minPix, maxPix := s.compressed.maxPix
        lastErr := 0, trace := (s.compressed.respond .ok aux val).trace } := by
  rw [respond_trace, State.respond, compressed_frame]
  rfl

/-- Settles O50: the pipeline's frame, with the length of the payload, the bounds of the width and the extremes. -/
theorem stateAfterCompress : Obligations.StateAfterCompress := by
  intro s h hc
  obtain ⟨⟨howf, -⟩, -, -, ⟨hcwf, -⟩, -⟩ := h.buffers
  obtain ⟨hw1, hw18⟩ := frameWidth_bounds s
  have hframe := compressed_respond_frame s (BitVec.ofNat 8 s.compressed.cwidth) (count32 s.compressed.csize)
  refine ⟨_, exec_compress hc, fun y x hy hx => compressed_cprev_pixel hcwf hy hx, rfl, compressed_olen howf, hw1,
    hw18, congrArg State.pkW hframe, congrArg State.pkAcc hframe, congrArg State.pkCnt hframe,
    (minFrom_le_maxFrom_iff s.interiorPixels).trans (interiorPixels_ne_nil_iff s), compressed_fin s, hframe⟩

/-- Settles O51: the loops bound every interior pixel and end with one of them. -/
theorem extremesAreOfTheInterior : Obligations.ExtremesAreOfTheInterior := by
  intro s h hc
  refine ⟨_, exec_compress hc, fun y x hy1 hy2 hx1 hx2 => ?_, fun hh hw => ?_, fun hnone => ?_⟩
  · have hp := mem_interiorPixels.2 ⟨y, x, hy1, hy2, hx1, hx2, rfl⟩
    exact ⟨minFrom_le hp, le_maxFrom hp⟩
  · have hne := (interiorPixels_ne_nil_iff s).2 ⟨hh, hw⟩
    exact ⟨mem_interiorPixels.1 (minFrom_mem hne), mem_interiorPixels.1 (maxFrom_mem hne)⟩
  · have hnil : s.interiorPixels = [] := by
      by_contra hne
      have hsize := (interiorPixels_ne_nil_iff s).1 hne
      omega
    change minFrom s.interiorPixels = 0xFFFF ∧ maxFrom s.interiorPixels = 0x0000
    rw [hnil]
    exact ⟨rfl, rfl⟩

/-! ### The unchanged frame -/

theorem deltas_eq_zero {s : State} (h : s.GeometryInv) (hc : s.cfg = true)
    (hsame : ∀ y x, y < s.h → x < s.w → pixel s.fin s.w y x = pixel s.cprev s.w y x) : ∀ d ∈ s.deltas, d = 0 := by
  obtain ⟨hw, -, -, -, hn, -⟩ := h.1 hc
  intro d hd
  obtain ⟨i, hi, rfl⟩ := List.mem_map.1 hd
  rw [List.mem_range, hn] at hi
  rw [State.deltaAt, hsame _ _ (unsnake_fst_lt hi) (unsnake_snd_lt i hw), Int.sub_self]

theorem adjacent_eq_zero {ds : List Int} (h : ∀ d ∈ ds, d = 0) : ∀ a ∈ adjacent ds, a = 0 := by
  have hbound := natAbs_le_of_mem_adjacent (ds := ds) (b := 0) fun d hd => by rw [h d hd]; rfl
  exact fun a ha => Int.natAbs_eq_zero.1 (Nat.le_zero.1 (hbound a ha))

theorem fieldsValue_eq_zero {S : List Int} (w : Nat) (h : ∀ a ∈ S, a = 0) : fieldsValue w S = 0 := by
  induction S with
  | nil => rfl
  | cons v S ih =>
    obtain ⟨rfl, hS⟩ := List.forall_mem_cons.1 h
    rw [fieldsValue_cons, ih hS, enc, Int.zero_emod]
    simp

/-- A payload of zeros is zeros (R118). -/
theorem payload_eq_zero {S : List Int} (w : Nat) (h : ∀ a ∈ S, a = 0) : ∀ b ∈ payload 0 S w, b = 0 := by
  intro b hb
  rcases List.mem_append.1 hb with hfirst | hrest
  · have hzero : ∀ b ∈ le32 0, b = 0 := by decide
    exact hzero b hfirst
  · obtain ⟨j, -, rfl⟩ := List.mem_map.1 hrest
    rw [fieldsValue_eq_zero w h, byteOf, Nat.zero_mul, Nat.zero_div]
    rfl

theorem Memory.read_mem_slice {k a n i : Nat} (m : Memory k) (hlo : a ≤ i) (hi : i < a + n) :
    m.read i ∈ m.slice a n := by
  induction n generalizing a with
  | zero => omega
  | succ n ih =>
    rw [Memory.slice_succ]
    rcases Nat.eq_or_lt_of_le hlo with rfl | hlt
    · exact List.mem_cons_self
    · exact List.mem_cons_of_mem _ (ih hlt (by omega))

/-- The bytes from `OBUF[0]` on are the payload (R102). -/
theorem compressed_slice {s : State} (hwf : s.obuf.wf = true) :
    s.compressed.obuf.slice 0 s.compressed.olen = payload (s.deltas.headD 0) (adjacent s.deltas) s.frameWidth := by
  have hemit := compressed_emitted hwf
  rw [hemit.olen]
  exact (congrArg _ (Nat.zero_add _)).trans hemit.bytes

/-- Settles O52: all the deltas are 0, so the width is 1 and the payload is packed zeros. -/
theorem unchangedFrameCompressesToZeros : Obligations.UnchangedFrameCompressesToZeros := by
  intro s h hc hsame
  obtain ⟨⟨howf, -⟩, -⟩ := h.buffers
  have hdeltas := deltas_eq_zero h.geometry hc hsame
  have hadjacent := adjacent_eq_zero hdeltas
  have hwidth : s.frameWidth = 1 := (frameWidth_eq_one_iff s).2 hadjacent
  have holen := compressed_olen howf
  rw [hwidth, Nat.mul_one] at holen
  have hfirst : s.deltas.headD 0 = 0 := by
    cases hD : s.deltas with
    | nil => rfl
    | cons d ds => exact hdeltas d (by rw [hD]; exact List.mem_cons_self)
  have hbytes := compressed_slice howf
  rw [hfirst] at hbytes
  refine ⟨_, exec_compress hc, hwidth, holen, fun a ha => ?_, ?_⟩
  · refine payload_eq_zero s.frameWidth hadjacent _ ?_
    rw [← hbytes]
    exact Memory.read_mem_slice _ (Nat.zero_le a) (by rw [Nat.zero_add]; exact ha)
  · rw [respond_trace, compressed_trace, show s.compressed.cwidth = 1 from hwidth,
      show s.compressed.csize = 4 + (s.n - 1 + 7) / 8 from holen]
    rfl

end Sys2Proof.Machine

/-! `DECOMPRESS` (spec/41_codec.md R105 to R110, R115): the deltas it decodes are, modulo `2^32`, the first delta plus
the packed values before them, and the pixels take them modulo `2^16`, so the wrap to 32 bits does not show. -/

namespace Sys2Proof.Machine

open Sys2Proof.Claims

/-! ### Decoding the deltas -/

theorem popDeltas_of_none {s : State} (hpop : s.upPop.1 = none) (k : Nat) (d : Int) :
    State.popDeltas (k + 1) d s = (none, s.upPop.2) := by
  rw [State.popDeltas]
  revert hpop
  rcases s.upPop with ⟨o, t⟩
  rintro (rfl : o = none)
  rfl

theorem popDeltas_of_some {s : State} {v : Int} (hpop : s.upPop.1 = some v) (k : Nat) (d : Int) :
    State.popDeltas (k + 1) d s =
      ((State.popDeltas k (wrap 32 (d + v)) s.upPop.2).1.map (wrap 32 (d + v) :: ·),
        (State.popDeltas k (wrap 32 (d + v)) s.upPop.2).2) := by
  rw [State.popDeltas]
  revert hpop
  rcases s.upPop with ⟨o, t⟩
  rintro (rfl : o = some v)
  rfl

theorem wrap_modEq (w : Nat) (v : Int) : wrap w v ≡ v [ZMOD (2 ^ w : Nat)] := by
  rw [wrap_eq_bmod]
  exact Int.bmod_emod

/-- `ds` after `d` are the running sums of `vs` from `d` on, each modulo `2^32` (R106). -/
def RunningSums (d : Int) (vs ds : List Int) : Prop :=
  ∀ i, i ≤ vs.length → (d :: ds).getD i 0 ≡ d + (vs.take i).sum [ZMOD (2 ^ 32 : Nat)]

theorem RunningSums.nil (d : Int) : RunningSums d [] [] := by
  intro i hi
  obtain rfl := Nat.le_zero.1 hi
  simp

theorem RunningSums.cons {d v : Int} {vs ds : List Int} (h : RunningSums (wrap 32 (d + v)) vs ds) :
    RunningSums d (v :: vs) (wrap 32 (d + v) :: ds) := by
  intro i hi
  cases i with
  | zero => simp
  | succ i =>
    rw [List.getD_cons_succ, List.take_succ_cons, List.sum_cons, ← Int.add_assoc]
    exact (h i (Nat.le_of_succ_le_succ hi)).trans ((wrap_modEq 32 (d + v)).add_right _)

section
variable {s : State} {a j : Nat}

theorem upPop_sameStream_bare (s : State) : SameStream s s.upPop.2 := ⟨upPop_upW s, upPop_ilen s, upPop_ibuf s⟩

/-- With the bits of `k` more values left, they are all decoded. -/
theorem State.Popped.popDeltas (h : s.Popped a j) (k : Nat) (d : Int)
    (hfit : 8 * a + (j + k) * s.upW ≤ 8 * s.ilen) :
    ∃ ds, (State.popDeltas k d s).1 = some ds ∧ (State.popDeltas k d s).2.Popped a (j + k) ∧
      RunningSums d ((List.range' j k).map (s.streamValue a)) ds := by
  induction k generalizing s j d with
  | zero => exact ⟨[], rfl, h, .nil d⟩
  | succ k ih =>
    have hone : (j + 1) * s.upW ≤ (j + (k + 1)) * s.upW := Nat.mul_le_mul_right _ (by omega)
    obtain ⟨hv, hpopped⟩ := h.upPop (by omega)
    have hsame := upPop_sameStream_bare s
    rw [show j + (k + 1) = j + 1 + k by omega] at hfit ⊢
    obtain ⟨ds, hds, hrest, hsums⟩ := ih hpopped (wrap 32 (d + s.streamValue a j))
      (by rw [hsame.width, hsame.ilen]; exact hfit)
    rw [popDeltas_of_some hv, hds]
    refine ⟨_, rfl, hrest, ?_⟩
    rw [List.range'_succ, List.map_cons]
    have hstream : s.upPop.2.streamValue a = s.streamValue a := funext (hsame.streamValue a)
    rw [hstream] at hsums
    exact hsums.cons

/-- With fewer bits left, the decoding fails and every byte is read. -/
theorem State.Popped.popDeltas_short (h : s.Popped a j) (k : Nat) (d : Int)
    (hfit : 8 * s.ilen < 8 * a + (j + k) * s.upW) :
    (State.popDeltas k d s).1 = none ∧ (State.popDeltas k d s).2.iptr = s.ilen := by
  induction k generalizing s j d with
  | zero =>
    have hbits := h.bits
    have hbound := h.bound
    rw [Nat.add_zero] at hfit
    omega
  | succ k ih =>
    rcases Nat.lt_or_ge (8 * s.ilen) (8 * a + (j + 1) * s.upW) with hlt | hle
    · obtain ⟨hnone, hdry⟩ := h.upPop_dry hlt
      rw [popDeltas_of_none hnone]
      exact ⟨rfl, hdry.ended.trans (upPop_ilen s)⟩
    · obtain ⟨hv, hpopped⟩ := h.upPop hle
      rw [show j + (k + 1) = j + 1 + k by omega] at hfit
      obtain ⟨hnone, hiptr⟩ := ih hpopped (wrap 32 (d + s.streamValue a j))
        (by rw [upPop_upW, upPop_ilen]; exact hfit)
      rw [popDeltas_of_some hv, hnone]
      exact ⟨rfl, hiptr.trans (upPop_ilen s)⟩

end

/-! ### The payload in `IBUF` -/

section
variable {s : State} {w size : Nat}

/-- The values packed in `IBUF[4 .. size−1]`. -/
def State.packedValues (s : State) (w size : Nat) : List Int :=
  (List.range (s.n - 1)).map fun i => dec w (fieldAt (s.ibuf.slice 4 (size - 4)) w i)

theorem length_packedValues (s : State) (w size : Nat) : (s.packedValues w size).length = s.n - 1 := by
  simp [State.packedValues]

/-- The payload has the bytes of R59 exactly when it has every bit that is read (R109). -/
theorem payloadBytes_le_iff (n w size : Nat) :
    4 + ((n - 1) * w + 7) / 8 ≤ size ↔ 8 * 4 + (0 + (n - 1)) * w ≤ 8 * size := by
  rw [Nat.zero_add]
  omega

/-- The decoded delta in terms of the values packed. -/
theorem decodedDelta_eq (hfit : 4 + ((s.n - 1) * w + 7) / 8 ≤ size) (i : Nat) :
    decodedDelta s w size i = s.firstDelta + ((s.packedValues w size).take i).sum := by
  have hvalues : unpack w (s.n - 1) (s.ibuf.slice 4 (size - 4)) = some (s.packedValues w size) := by
    refine if_pos ?_
    rw [Memory.length_slice]
    omega
  rw [decodedDelta, hvalues, Option.getD_some]

/-- The unpacker opened after the first delta's four bytes (R108). -/
theorem decodeStart_popped (h4 : 4 ≤ size) (hw : w ≤ 32) :
    (State.upInit { s with ilen := size, iptr := 4 } w).Popped 4 0 :=
  upInit_popped (s := { s with ilen := size, iptr := 4 }) h4 hw

/-- A payload that is long enough is decoded, and just its bytes are read (R106, R110). -/
theorem decoded_of_enough (hw : w ≤ 32) (hfit : 4 + ((s.n - 1) * w + 7) / 8 ≤ size) :
    ∃ ds, (s.decoded w size).1 = some ds ∧ (s.decoded w size).2.iptr = 4 + ((s.n - 1) * w + 7) / 8 ∧
      RunningSums s.firstDelta (s.packedValues w size) ds := by
  have h4 : 4 ≤ size := by omega
  obtain ⟨ds, hds, hpopped, hsums⟩ := (decodeStart_popped (s := s) h4 hw).popDeltas (s.n - 1) s.firstDelta
    ((payloadBytes_le_iff s.n w size).1 hfit)
  refine ⟨ds, hds, ?_, ?_⟩
  · have hbits := hpopped.bits
    have hcount := hpopped.count
    rw [Nat.zero_add, popDeltas_upW, upInit_upW] at hbits
    unfold State.decoded
    omega
  · rw [← List.range_eq_range'] at hsums
    exact hsums

/-- A payload that is too short is read to its end (R109). -/
theorem decoded_of_short (h4 : 4 ≤ size) (hw : w ≤ 32) (hshort : size < 4 + ((s.n - 1) * w + 7) / 8) :
    (s.decoded w size).1 = none ∧ (s.decoded w size).2.iptr = size :=
  (decodeStart_popped (s := s) h4 hw).popDeltas_short (s.n - 1) s.firstDelta
    (Nat.not_le.1 fun hle => Nat.not_le.2 hshort ((payloadBytes_le_iff s.n w size).2 hle))

/-- A payload that is too short leaves the unpacker closed at its end. -/
theorem decoded_upClose_of_short (h4 : 4 ≤ size) (hw : w ≤ 32) (hshort : size < 4 + ((s.n - 1) * w + 7) / 8) :
    (s.decoded w size).2.upClose = State.upClose { s with ilen := size, iptr := size } := by
  rw [decoded_frame, (decoded_of_short h4 hw hshort).2]
  rfl

/-- A decoded frame changes the two frame buffers and the unpacker only. -/
theorem placeFrame_decoded (s : State) (w size : Nat) (D : List Int) :
    ((s.decoded w size).2.placeFrame D).upClose =
      { s with
        fout := Memory.fill s.fout (s.outPixel D) (s.h * s.w)
        dprev := Memory.fill s.dprev (s.outPixel D) (s.h * s.w)
        ilen := size, iptr := (s.decoded w size).2.iptr, upW := 0, upAcc := 0, upCnt := 0 } := by
  rw [decoded_frame]
  rfl

end

/-! ### The pixels -/

/-- A pixel shows a delta modulo `2^16` only, so what the deltas are modulo `2^32` is enough (R115). -/
theorem ofInt_add_congr (p : Int) {d e : Int} (h : d ≡ e [ZMOD (2 ^ 32 : Nat)]) :
    BitVec.ofInt 16 (p + d) = BitVec.ofInt 16 (p + e) := by
  have h16 : p + d ≡ p + e [ZMOD (2 ^ 16 : Nat)] := (h.of_dvd (by decide)).add_left p
  apply BitVec.eq_of_toNat_eq
  rw [BitVec.toNat_ofInt, BitVec.toNat_ofInt, h16.eq]

theorem outPixel_raster (s : State) (D : List Int) (y : Nat) {x : Nat} (hx : x < s.w) :
    s.outPixel D (raster s.w y x) =
      BitVec.ofInt 16 (((pixel s.dprev s.w y x).toNat : Int) + D.getD (snake s.w y x) 0) := by
  obtain ⟨hrow, hcol⟩ := raster_divMod y hx
  rw [State.outPixel, hrow, hcol, pixel]

/-! ### The command with its checks decided -/

section
variable {s : State} {w : BitVec 8} {size : Value} (hc : s.cfg = true) (hw : widthLegal w = true)
  (hs : size.toNat ≤ s.bufcap)

include hc hw hs

theorem exec_decompress_tooShort (h4 : size.toNat < 4) :
    exec (.decompress w size) s =
      raise .endOfStream (State.upClose { s with ilen := size.toNat, iptr := size.toNat }) := by
  rw [exec, execDecompress, if_neg (by simp [hc]), if_neg (by simp [hw]), if_neg (Nat.not_lt.2 hs), if_pos h4]

theorem exec_decompress_none (h4 : 4 ≤ size.toNat) (hd : (s.decoded w.toNat size.toNat).1 = none) :
    exec (.decompress w size) s = raise .endOfStream (s.decoded w.toNat size.toNat).2.upClose := by
  rw [exec, execDecompress, if_neg (by simp [hc]), if_neg (by simp [hw]), if_neg (Nat.not_lt.2 hs),
    if_neg (Nat.not_lt.2 h4), ← State.decoded]
  revert hd
  rcases s.decoded w.toNat size.toNat with ⟨o, t⟩
  rintro (rfl : o = none)
  rfl

theorem exec_decompress_some (h4 : 4 ≤ size.toNat) {ds : List Int}
    (hd : (s.decoded w.toNat size.toNat).1 = some ds) :
    exec (.decompress w size) s =
      finish 0 (count32 (s.decoded w.toNat size.toNat).2.iptr)
        ((s.decoded w.toNat size.toNat).2.placeFrame (s.firstDelta :: ds)).upClose := by
  rw [exec, execDecompress, if_neg (by simp [hc]), if_neg (by simp [hw]), if_neg (Nat.not_lt.2 hs),
    if_neg (Nat.not_lt.2 h4), ← State.decoded]
  revert hd
  rcases s.decoded w.toNat size.toNat with ⟨o, t⟩
  rintro (rfl : o = some ds)
  rfl

/-- Whether in its first four bytes or after them, a payload that ends early is consumed and closed. -/
theorem exec_decompress_short (hshort : size.toNat < 4 + ((s.n - 1) * w.toNat + 7) / 8) :
    exec (.decompress w size) s =
      raise .endOfStream (State.upClose { s with ilen := size.toNat, iptr := size.toNat }) := by
  rcases Nat.lt_or_ge size.toNat 4 with hlt | h4
  · exact exec_decompress_tooShort hc hw hs hlt
  · have hw32 := ((widthLegal_iff w).1 hw).2
    rw [exec_decompress_none hc hw hs h4 (decoded_of_short h4 hw32 hshort).1,
      decoded_upClose_of_short h4 hw32 hshort]

end

/-- Settles O53: each pixel takes the delta at its snake index, which is the decoded one modulo `2^32`. -/
theorem decompressAddsTheDecodedDeltas : Obligations.DecompressAddsTheDecodedDeltas := by
  intro s w size h hc hw1 hw32 hs hfit
  have h4 : 4 ≤ size.toNat := by omega
  obtain ⟨-, -, -, -, ⟨hdwf, -⟩, ⟨hfwf, -⟩⟩ := h.buffers
  obtain ⟨ds, hds, hiptr, hsums⟩ := decoded_of_enough hw32 hfit
  have hexec := exec_decompress_some hc ((widthLegal_iff w).2 ⟨hw1, hw32⟩) hs h4 hds
  rw [placeFrame_decoded, hiptr] at hexec
  refine ⟨_, hexec, fun y x hy hx => ?_, rfl, rfl, rfl⟩
  have hindex : snake s.w y x ≤ (s.packedValues w.toNat size.toNat).length := by
    have hlt := h.geometry.snake_lt hc hy hx
    rw [length_packedValues]
    omega
  constructor
  · refine (pixel_fill hfwf _ hy hx).trans ?_
    rw [outPixel_raster s _ y hx, decodedDelta_eq hfit]
    exact ofInt_add_congr _ (hsums _ hindex)
  · exact (pixel_fill hdwf _ hy hx).trans (pixel_fill hfwf _ hy hx).symm

/-- Settles O54: a short payload is consumed to its end, and one that is long enough is decoded. -/
theorem shortPayloadEndsInEndOfStream : Obligations.ShortPayloadEndsInEndOfStream := by
  intro s w size h hc hw1 hw32 hs
  have hw := (widthLegal_iff w).2 ⟨hw1, hw32⟩
  rcases Nat.lt_or_ge size.toNat (4 + ((s.n - 1) * w.toNat + 7) / 8) with hshort | hfit
  · exact ⟨_, exec_decompress_short hc hw hs hshort, iff_of_true rfl hshort, fun _ => rfl⟩
  · obtain ⟨ds, hds, -, -⟩ := decoded_of_enough hw32 hfit
    have hnot := Nat.not_lt.2 hfit
    exact ⟨_, exec_decompress_some hc hw hs (by omega) hds, iff_of_false (show (0 : BitVec 8) ≠ 1 by decide) hnot,
      fun hshort => absurd hshort hnot⟩

end Sys2Proof.Machine

/-! The round trip of the codec (spec/41_codec.md R116): the payload `COMPRESS` emits decodes to its deltas, since they
fit the fields that hold them, and the previous frame plus the deltas is the frame. -/

namespace Sys2Proof.Machine

open Sys2Proof.Claims

/-- A delta is the first one plus the differences up to it (R98). -/
theorem headD_add_sum_take_adjacent {ds : List Int} {i : Nat} (hi : i < ds.length) :
    ds.headD 0 + ((adjacent ds).take i).sum = ds.getD i 0 := by
  induction ds using adjacent.induct generalizing i with
  | case1 d e ds ih =>
    cases i with
    | zero => simp
    | succ i =>
      have hrest := ih (Nat.lt_of_succ_lt_succ hi)
      rw [List.headD_cons] at hrest
      rw [adjacent, List.take_succ_cons, List.sum_cons, List.headD_cons, List.getD_cons_succ, ← hrest]
      ring
  | case2 ds hshort =>
    rcases ds with _ | ⟨d, _ | ⟨e, ds⟩⟩
    · exact absurd hi (Nat.not_lt_zero i)
    · obtain rfl := Nat.lt_one_iff.1 hi
      simp [adjacent]
    · exact (hshort d e ds rfl).elim

/-- The first delta is in four bytes at the head of the payload. -/
theorem firstDelta_of_le32 {s : State} {d0 : Int} (h : s.ibuf.slice 0 4 = le32 d0) : s.firstDelta = wrap 32 d0 := by
  have hbytes : [s.ibuf.read 0, s.ibuf.read 1, s.ibuf.read 2, s.ibuf.read 3] =
      [le32Byte d0 0, le32Byte d0 1, le32Byte d0 2, le32Byte d0 3] := h
  simp only [List.cons.injEq, and_true] at hbytes
  obtain ⟨h0, h1, h2, h3⟩ := hbytes
  rw [State.firstDelta, h0, h1, h2, h3, sle32_le32Byte]

/-- A payload of values that fit decodes to them (R58, R105, R106). -/
theorem decodedDelta_of_payload {s : State} {d0 : Int} {S : List Int} {w : Nat} (hw : 1 ≤ w)
    (hlen : S.length = s.n - 1) (hd0 : wrap 32 d0 = d0) (hS : ∀ v ∈ S, wrap w v = v)
    (hbuf : s.ibuf.slice 0 (4 + bytesFor (S.length * w)) = payload d0 S w) (i : Nat) :
    decodedDelta s w (4 + bytesFor (S.length * w)) i = d0 + (S.take i).sum := by
  rw [Memory.slice_add] at hbuf
  obtain ⟨hfirst, hrest⟩ := List.append_inj hbuf (Memory.length_slice ..)
  have hself : S.map (wrap w) = S := (List.map_congr_left hS).trans (List.map_id' S)
  rw [decodedDelta, firstDelta_of_le32 hfirst, hd0, Nat.add_sub_cancel_left, ← hlen, hrest, unpack_pack hw, hself]
  rfl

theorem wrap_of_mem_adjacent_deltas {s : State} {a : Int} (ha : a ∈ adjacent s.deltas) :
    wrap s.frameWidth a = a :=
  wrap_eq_self_of_natAbs_lt (frameWidth_bounds s).1 (natAbs_lt_of_mem_adjacent_deltas ha)

theorem wrap_headD_deltas (s : State) : wrap 32 (s.deltas.headD 0) = s.deltas.headD 0 := by
  refine wrap_eq_self_of_natAbs_lt (by decide) ?_
  cases hD : s.deltas with
  | nil => decide
  | cons d ds =>
    have hle : d.natAbs ≤ 65535 := natAbs_le_of_mem_deltas (s := s) (by rw [hD]; exact List.mem_cons_self)
    exact Nat.lt_of_le_of_lt hle (by decide)

/-- The emitted payload in the input of an engine with as many pixels decodes to the deltas. -/
theorem decodedDelta_of_compressed {s u : State} (hwf : s.obuf.wf = true) (hn : u.n = s.n)
    (hbuf : u.ibuf.slice 0 s.compressed.olen = s.compressed.obuf.slice 0 s.compressed.olen) {i : Nat} (hi : i < s.n) :
    decodedDelta u s.frameWidth s.compressed.olen i = s.deltas.getD i 0 := by
  have hlen := length_adjacent_deltas s
  have holen : s.compressed.olen = 4 + bytesFor ((adjacent s.deltas).length * s.frameWidth) := by
    rw [compressed_olen hwf, hlen, bytesFor]
  rw [compressed_slice hwf, holen] at hbuf
  rw [holen, decodedDelta_of_payload (frameWidth_bounds s).1 (by rw [hlen, hn]) (wrap_headD_deltas s)
    (fun _ => wrap_of_mem_adjacent_deltas) hbuf, headD_add_sum_take_adjacent (by rwa [length_deltas])]

/-- The previous pixel plus its delta is the pixel. -/
theorem ofInt_add_sub_eq (p q : Pixel) :
    BitVec.ofInt 16 ((q.toNat : Int) + ((p.toNat : Int) - (q.toNat : Int))) = p := by
  rw [add_sub_cancel, BitVec.ofInt_natCast, BitVec.ofNat_toNat, BitVec.setWidth_eq]

/-- Settles O55: the decompressor adds to each pixel of the common previous frame the delta that the compressor took
from it. -/
theorem decompressOfCompressIsTheFrame : Obligations.DecompressOfCompressIsTheFrame := by
  intro s u h hc hu huc huw huh hprev
  obtain ⟨⟨howf, -⟩, -, -, ⟨hcwf, -⟩, -⟩ := h.buffers
  obtain ⟨hw, -, hh, -, hn, -⟩ := h.geometry_of_cfg hc
  obtain ⟨-, -, -, -, hun, humax⟩ := hu.geometry_of_cfg huc
  obtain ⟨hw1, hw18⟩ := frameWidth_bounds s
  have hsame : u.n = s.n := by rw [hun, hn, huw, huh]
  have hpixels : 1 ≤ s.n := by rw [hn]; exact Nat.mul_pos hw hh
  have holen := compressed_olen howf
  have hbytes := payload_bytes_le hpixels hw18
  refine ⟨_, exec_compress hc, fun hsize hbuf => ?_⟩
  have hsize' : (BitVec.ofNat 32 s.compressed.olen).toNat = s.compressed.olen := by
    rw [BitVec.toNat_ofNat]
    exact Nat.mod_eq_of_lt hsize
  have hwidth : (BitVec.ofNat 8 s.frameWidth).toNat = s.frameWidth := by
    rw [BitVec.toNat_ofNat]
    exact Nat.mod_eq_of_lt (by omega)
  obtain ⟨r, hexec, hpix, hiptr, -, hr⟩ :=
    decompressAddsTheDecodedDeltas u (BitVec.ofNat 8 s.frameWidth) (BitVec.ofNat 32 s.compressed.olen) hu huc
      (by rw [hwidth]; exact hw1) (by rw [hwidth]; omega) (by rw [hsize']; omega)
      (by rw [hwidth, hsize', hsame, holen])
  rw [hwidth, hsame, ← holen] at hiptr
  refine ⟨r, hexec, by rw [hr], hiptr, fun y x hy hx => ?_⟩
  obtain ⟨hfout, hdprev⟩ := hpix y x (by rwa [huh]) (by rwa [huw])
  rw [huw, hwidth, hsize', hprev y x hy hx,
    decodedDelta_of_compressed howf hsame hbuf (h.geometry.snake_lt hc hy hx),
    deltas_getD_snake h.geometry hc hy hx, ofInt_add_sub_eq] at hfout
  rw [huw] at hdprev
  exact ⟨hfout, hdprev.trans hfout, compressed_cprev_pixel hcwf hy hx⟩

end Sys2Proof.Machine

/-! The system and buffer commands (spec/42_system_and_buffers.md): `RESET` and `CONFIG`, and the four commands that
read or write one cell of a buffer. -/

namespace Sys2Proof.Machine

/-! ### The commands with their checks decided -/

/-- The reset state with a geometry set (R120). -/
def State.configured (s : State) (w h : Nat) : State := { s.clear with cfg := true, w := w, h := h, n := w * h }

/-- The state with one pixel of `FIN` written (R122). -/
def State.writePixel (s : State) (y x : Nat) (v : Pixel) : State :=
  { s with fin := Memory.write s.fin (raster s.w y x) v }

/-- The state with one byte of `IBUF` written (R124). -/
def State.writeByte (s : State) (j : Nat) (b : Byte) : State := { s with ibuf := Memory.write s.ibuf j b }

section
variable {s : State} {y x : BitVec 16}

theorem pixelInRange_of_lt (hy : y.toNat < s.h) (hx : x.toNat < s.w) : s.pixelInRange y x = true := by
  simp [State.pixelInRange, hy, hx]

theorem exec_reset (s : State) : exec .reset s = finish 0 0 s.clear := rfl

theorem exec_config {w h : BitVec 16} (hw : 1 ≤ w.toNat) (hh : 1 ≤ h.toNat) (hn : w.toNat * h.toNat ≤ s.maxN) :
    exec (.config w h) s = finish 0 0 (s.configured w.toNat h.toNat) :=
  (if_neg (by omega)).trans (if_neg (Nat.not_lt.2 hn))

theorem exec_wrpix (v : Pixel) (hc : s.cfg = true) (hy : y.toNat < s.h) (hx : x.toNat < s.w) :
    exec (.wrpix y x v) s = finish 0 0 (s.writePixel y.toNat x.toNat v) :=
  (if_neg (by simp [hc])).trans (if_neg (by simp [pixelInRange_of_lt hy hx]))

theorem exec_rdpix {sel : BitVec 8} {pb : Memory 16} (hsel : s.selected sel = some pb) (hc : s.cfg = true)
    (hy : y.toNat < s.h) (hx : x.toNat < s.w) :
    exec (.rdpix sel y x) s = finish 0 ((pixel pb s.w y.toNat x.toNat).zeroExtend 32) s := by
  rw [exec, execRdpix, if_neg (by simp [hc]), hsel]
  exact if_neg (by simp [pixelInRange_of_lt hy hx])

theorem exec_wrib {j : Value} (b : Byte) (hj : j.toNat < s.bufcap) :
    exec (.wrib j b) s = finish 0 0 (s.writeByte j.toNat b) :=
  if_neg (Nat.not_le.2 hj)

theorem exec_rdob {j : Value} (hj : j.toNat < s.olen) :
    exec (.rdob j) s = finish 0 ((s.obuf.read j.toNat).zeroExtend 32) s :=
  if_neg (Nat.not_le.2 hj)

/-- The selectors of `RDPIX` (R123). -/
theorem selected_of_mem {p : BitVec 8 × Memory 16}
    (hp : p ∈ [((0 : BitVec 8), s.fout), (1, s.fin), (2, s.cprev), (3, s.dprev)]) : s.selected p.1 = some p.2 := by
  simp only [List.mem_cons, List.not_mem_nil, or_false] at hp
  obtain rfl | rfl | rfl | rfl := hp <;> rfl

end

/-! ### Pixels and raster indices -/

/-- Two pixels of a frame lie in different cells. -/
theorem raster_inj {w y x y' x' : Nat} (hx : x < w) (hx' : x' < w) (h : raster w y x = raster w y' x') :
    (y, x) = (y', x') := by
  obtain ⟨hrow, hcol⟩ := raster_divMod y hx
  obtain ⟨hrow', hcol'⟩ := raster_divMod y' hx'
  rw [h] at hrow hcol
  exact Prod.ext (hrow.symm.trans hrow') (hcol.symm.trans hcol')

theorem pixel_write_other {m : Memory 16} {w y x y' x' : Nat} (v : Pixel) (hx : x < w) (hx' : x' < w)
    (hne : (y', x') ≠ (y, x)) : pixel (Memory.write m (raster w y x) v) w y' x' = pixel m w y' x' :=
  Memory.read_write_other v fun h => hne (raster_inj hx hx' h).symm

/-! ### One cell of a buffer -/

/-- Settles O31: different pixels of a frame are different cells, and a write leaves every other cell. -/
theorem wrpixWritesOnePixel : Obligations.WrpixWritesOnePixel := by
  intro s y x v hwf hc hy hx
  exact ⟨_, exec_wrpix v hc hy hx, Memory.read_write_same _ v hwf, fun _ _ hx' hne => pixel_write_other v hx hx' hne,
    fun _ ha => Memory.read_write_other v ha.symm, Memory.wf_write _ v hwf, rfl⟩

/-- Settles O32: each of the four selectors names its buffer. -/
theorem rdpixReturnsThePixel : Obligations.RdpixReturnsThePixel := by
  intro s y x hc hy hx p hp
  exact ⟨_, exec_rdpix (selected_of_mem hp) hc hy hx, by rw [BitVec.ofNat_toNat]⟩

/-- Settles O33: a write leaves every other cell. -/
theorem wribWritesOneByte : Obligations.WribWritesOneByte := by
  intro s j b hwf hj
  exact ⟨_, exec_wrib b hj, Memory.read_write_same _ b hwf, fun _ ha => Memory.read_write_other b ha.symm,
    Memory.wf_write _ b hwf, rfl⟩

/-- Settles O34: a byte below `OLEN` passes the command's one check. -/
theorem rdobReturnsTheByte : Obligations.RdobReturnsTheByte := by
  intro s j hj
  exact ⟨_, exec_rdob hj, by rw [BitVec.ofNat_toNat]⟩

/-! ### Reset and geometry -/

/-- A success with nothing to report answers with the word 0 (R66). -/
theorem responseWord_ok_zero : responseWord .ok 0#8 0#32 = 0#64 := rfl

/-- Settles O28: the command ends with the cleared state, in which every buffer lists no cell. -/
theorem resetClearsAllState : Obligations.ResetClearsAllState := by
  intro s
  refine ⟨_, exec_reset s, ?_⟩
  simp [responseWord_ok_zero, Err.code]

/-- Settles O29: both dimensions and their product pass the checks, and the rest of the state is cleared. -/
theorem configIsResetThenGeometry : Obligations.ConfigIsResetThenGeometry :=
  fun _ _ _ hw hh hn => exec_config hw hh hn

end Sys2Proof.Machine

/-! The exceptions (spec/60_exceptions.md R133 to R142): what an error leaves unwritten, which commands can answer
`EndOfStream` and `NotConfigured`, and what each failed check answers where the checks before it pass. -/

namespace Sys2Proof.Machine

open Sys2Proof.Claims

/-! ### What an error leaves unwritten -/

/-- The numbers of the response codes are those of the table of R133, in its order. -/
theorem Err.ofNat_code (e : Err) : Err.ofNat e.code.toNat = e := by cases e <;> rfl

theorem Err.code_injective : Function.Injective Err.code :=
  Function.LeftInverse.injective (g := fun c : BitVec 8 => Err.ofNat c.toNat) Err.ofNat_code

section
variable {s u : State} {i : Instr} {e : Err}

/-- An error other than `EndOfStream` is raised before anything is written (R134 to R140). -/
theorem Effect.state_kept_of_error (h : Effect s i e u) (hok : e ≠ .ok) (hend : e ≠ .endOfStream) : u = s := by
  cases h with
  | refused => rfl
  | uppopEnd | decompressTooShort | decompressEnd => exact absurd rfl hend
  | _ => exact absurd rfl hok

/-- The input stream is read by `UPPOP` and `DECOMPRESS` only (R141). -/
theorem Effect.reads_stream_of_endOfStream (h : Effect s i .endOfStream u) :
    i = .uppop ∨ ∃ w size, i = .decompress w size := by
  cases h with
  | refused _ hend => exact absurd rfl hend
  | uppopEnd => exact .inl rfl
  | decompressTooShort | decompressEnd => exact .inr ⟨_, _, rfl⟩

end

/-- Settles O20: the code tells which error the command's effect ended with, and only the effects that end a stream
have both an error and a write. -/
theorem errorsWriteOnlyLasterr : Obligations.ErrorsWriteOnlyLasterr := by
  intro i s t hexec
  obtain ⟨u, e, aux, val, rfl, hbare, heff⟩ := exec_inversion hexec
  rw [respond_lastErr]
  constructor
  · intro hne0 hne1
    have hok : e ≠ .ok := fun h => hne0 (congrArg Err.code h)
    have hend : e ≠ .endOfStream := fun h => hne1 (congrArg Err.code h)
    obtain ⟨rfl, rfl⟩ := hbare hok
    obtain rfl := heff.state_kept_of_error hok hend
    rw [← responseWord_bare]
    rfl
  · intro h1
    obtain rfl : e = .endOfStream := Err.code_injective h1
    exact heff.reads_stream_of_endOfStream

/-! ### The geometry check -/

/-- The outcome is a response, and its code is not `e`. -/
def NeverAnswers (e : Err) (o : Host.Outcome State Fault Refusal) : Prop :=
  ∃ (u : State) (e' : Err) (aux : BitVec 8) (val : Value), o = .next (u.respond e' aux val) ∧ e' ≠ e

section
variable {e e' : Err} {o o' : Host.Outcome State Fault Refusal} {s t : State}

theorem NeverAnswers.lastErr_ne (h : NeverAnswers e o) (ho : o = .next t) : t.lastErr ≠ e.code := by
  obtain ⟨u, e', aux, val, hresp, hne⟩ := h
  obtain rfl := Host.Outcome.next.inj (ho.symm.trans hresp)
  exact Err.code_injective.ne hne

theorem neverAnswers_raise (he : e' ≠ e) (s : State) : NeverAnswers e (raise e' s) := ⟨s, e', 0, 0, rfl, he⟩

theorem neverAnswers_finish (he : .ok ≠ e) (aux : BitVec 8) (val : Value) (s : State) :
    NeverAnswers e (finish aux val s) :=
  ⟨s, .ok, aux, val, rfl, he⟩

/-- A check whose two outcomes both answer something else. -/
theorem neverAnswers_ite {c : Prop} [Decidable c] (h : NeverAnswers e o) (h' : NeverAnswers e o') :
    NeverAnswers e (if c then o else o') := by
  split
  · exact h
  · exact h'

/-- The rules of the ten other commands do not name `NotConfigured` among their checks. -/
theorem neverAnswers_notConfigured {i : Instr} (hi : needsGeometry i = false) (s : State) :
    NeverAnswers .notConfigured (exec i s) := by
  have hfinish := neverAnswers_finish (e := .notConfigured) (by decide)
  have hbadWidth := neverAnswers_raise (e := .notConfigured) (e' := .badWidth) (by decide)
  have hnotOpen := neverAnswers_raise (e := .notConfigured) (e' := .notOpen) (by decide)
  have hbadOperand := neverAnswers_raise (e := .notConfigured) (e' := .badOperand) (by decide)
  have hbufferFull := neverAnswers_raise (e := .notConfigured) (e' := .bufferFull) (by decide)
  have hendOfStream := neverAnswers_raise (e := .notConfigured) (e' := .endOfStream) (by decide)
  cases i with
  | reset => exact hfinish 0 0 _
  | config w h => exact neverAnswers_ite (hbadOperand s) (neverAnswers_ite (hbadOperand s) (hfinish 0 0 _))
  | rdreg n =>
    rw [exec, execRdreg]
    split
    · exact hbadOperand s
    · exact hfinish 0 _ s
  | wrib j b => exact neverAnswers_ite (hbadOperand s) (hfinish 0 0 _)
  | rdob j => exact neverAnswers_ite (hbadOperand s) (hfinish 0 _ s)
  | pkinit w => exact neverAnswers_ite (hbadWidth s) (hfinish 0 0 _)
  | pkpush v => exact neverAnswers_ite (hnotOpen s) (neverAnswers_ite (hbufferFull s) (hfinish _ _ _))
  | pkflush => exact neverAnswers_ite (hnotOpen s) (neverAnswers_ite (hbufferFull s) (hfinish _ _ _))
  | upinit w size => exact neverAnswers_ite (hbadWidth s) (neverAnswers_ite (hbadOperand s) (hfinish 0 0 _))
  | uppop =>
    refine neverAnswers_ite (hnotOpen s) ?_
    split
    · exact hfinish 0 _ _
    · exact hendOfStream _
  | cinit | dinit | wrpix | rdpix | compress | decompress => cases hi

/-- The geometry is the first check of the six commands that need one. -/
theorem exec_notConfigured {i : Instr} (hi : needsGeometry i = true) (hc : s.cfg = false) :
    exec i s = raise .notConfigured s := by
  cases i with
  | cinit | dinit | wrpix | rdpix | compress | decompress => exact if_pos hc
  | _ => cases hi

end

/-- Settles O23: the six commands check the geometry first, and the other ten do not check it. -/
theorem geometryCommandsNeedConfig : Obligations.GeometryCommandsNeedConfig :=
  ⟨fun _ _ hi hc => exec_notConfigured hi hc,
    fun _ s _ hi hexec => (neverAnswers_notConfigured hi s).lastErr_ne hexec⟩

/-! ### The other checks, one failed check at a time -/

section
variable {s : State} {w : BitVec 8} {y x : BitVec 16}

theorem exec_pkpush_closed (v : Value) (h0 : s.pkW = 0) : exec (.pkpush v) s = raise .notOpen s := if_pos h0

theorem exec_pkflush_closed (h0 : s.pkW = 0) : exec .pkflush s = raise .notOpen s := if_pos h0

theorem exec_uppop_closed (h0 : s.upW = 0) : exec .uppop s = raise .notOpen s := if_pos h0

theorem widthLegal_eq_false_iff : widthLegal w = false ↔ w.toNat = 0 ∨ 32 < w.toNat := by
  rw [← Bool.not_eq_true, widthLegal_iff]
  omega

theorem exec_pkinit_badWidth (hw : widthLegal w = false) : exec (.pkinit w) s = raise .badWidth s := if_pos hw

theorem exec_upinit_badWidth (hw : widthLegal w = false) (size : Value) :
    exec (.upinit w size) s = raise .badWidth s :=
  if_pos hw

theorem exec_decompress_badWidth (hc : s.cfg = true) (hw : widthLegal w = false) (size : Value) :
    exec (.decompress w size) s = raise .badWidth s :=
  (if_neg (by simp [hc])).trans (if_pos hw)

theorem exec_config_badOperand {w h : BitVec 16} (hwh : w.toNat = 0 ∨ h.toNat = 0 ∨ s.maxN < w.toNat * h.toNat) :
    exec (.config w h) s = raise .badOperand s := by
  rw [exec, execConfig]
  split
  · rfl
  next hz => exact if_pos ((or_assoc.2 hwh).resolve_left hz)

theorem exec_rdreg_badOperand {n : Value} (hn : 12 < n.toNat) : exec (.rdreg n) s = raise .badOperand s := by
  rw [exec, execRdreg, statusRegister_eq_none hn]

theorem pixelInRange_eq_false_iff : s.pixelInRange y x = false ↔ s.h ≤ y.toNat ∨ s.w ≤ x.toNat := by
  simp only [State.pixelInRange, Bool.and_eq_false_iff, decide_eq_false_iff_not, Nat.not_lt]

theorem exec_wrpix_badOperand (v : Pixel) (hc : s.cfg = true) (hyx : s.pixelInRange y x = false) :
    exec (.wrpix y x v) s = raise .badOperand s :=
  (if_neg (by simp [hc])).trans (if_pos hyx)

/-- The selector and the coordinates are checked in turn, with one code for both. -/
theorem exec_rdpix_badOperand {sel : BitVec 8} (hc : s.cfg = true)
    (h : s.selected sel = none ∨ s.pixelInRange y x = false) :
    exec (.rdpix sel y x) s = raise .badOperand s := by
  rw [exec, execRdpix, if_neg (by simp [hc])]
  split
  · rfl
  next pb hsel => exact if_pos (h.resolve_left (by simp [hsel]))

theorem exec_wrib_badOperand {j : Value} (b : Byte) (hj : s.bufcap ≤ j.toNat) :
    exec (.wrib j b) s = raise .badOperand s :=
  if_pos hj

theorem exec_rdob_badOperand {j : Value} (hj : s.olen ≤ j.toNat) : exec (.rdob j) s = raise .badOperand s := if_pos hj

theorem exec_upinit_badOperand {size : Value} (hw : widthLegal w = true) (hs : s.bufcap < size.toNat) :
    exec (.upinit w size) s = raise .badOperand s :=
  (if_neg (by simp [hw])).trans (if_pos hs)

theorem exec_decompress_badOperand {size : Value} (hc : s.cfg = true) (hw : widthLegal w = true)
    (hs : s.bufcap < size.toNat) : exec (.decompress w size) s = raise .badOperand s := by
  rw [exec, execDecompress, if_neg (by simp [hc]), if_neg (by simp [hw]), if_pos hs]

end

/-- Settles O24: the open unit is the first check of each of the three commands. -/
theorem streamCommandsNeedAnOpenUnit : Obligations.StreamCommandsNeedAnOpenUnit :=
  fun _ v => ⟨fun h0 => ⟨exec_pkpush_closed v h0, exec_pkflush_closed h0⟩, exec_uppop_closed⟩

/-- Settles O25: no check of an operand comes before that of the width. -/
theorem widthsOutsideOneToThirtyTwoAreRefused : Obligations.WidthsOutsideOneToThirtyTwoAreRefused := by
  intro s w size h
  have hw := widthLegal_eq_false_iff.2 h
  exact ⟨exec_pkinit_badWidth hw, exec_upinit_badWidth hw size, fun hc => exec_decompress_badWidth hc hw size⟩

/-- Settles O26: a lemma for each row of the table. -/
theorem operandsOutOfRangeAreRefused : Obligations.OperandsOutOfRangeAreRefused := by
  intro s y x w h v sel k j b
  refine ⟨exec_config_badOperand, exec_rdreg_badOperand,
    fun hc hyx => exec_wrpix_badOperand v hc (pixelInRange_eq_false_iff.2 hyx),
    fun hc hrange => exec_rdpix_badOperand hc (hrange.imp (selected_eq_none · s) pixelInRange_eq_false_iff.2),
    exec_wrib_badOperand b, exec_rdob_badOperand, fun hk1 hk32 hs => ?_⟩
  have hk := (widthLegal_iff k).2 ⟨hk1, hk32⟩
  exact ⟨exec_upinit_badOperand hk hs, fun hc => exec_decompress_badOperand hc hk hs⟩

end Sys2Proof.Machine

/-! The reset (spec/70_reset_and_hazards.md R151, R152): the reset input clears what `RESET` clears, and the state it
leads to meets the invariant. -/

namespace Sys2Proof.Machine

/-- The reset input is no command: it clears the state and answers nothing (R151). -/
theorem runInput_resetInput (s : State) : runInput .resetInput s = .next s.clear := rfl

/-- Settles O14: the step takes the input and clears the state that is left, and with no input there is nothing to
take. -/
theorem resetInputClearsAndIdleKeeps : Obligations.ResetInputClearsAndIdleKeeps :=
  ⟨fun _ _ hinputs => (step_of_inputs hinputs).trans (runInput_resetInput _), fun _ hinputs => step_idle hinputs⟩

/-- The closed and empty units, the empty buffers and the empty pair of extremes are what the ranges allow
(10_state.md R15 to R29). -/
theorem resetWith_inv {m : Nat} (h1 : 1 ≤ m) (hmax : m ≤ Config.maxNLimit) : (State.resetWith m).Inv where
  param := ⟨h1, hmax⟩
  geometry := ⟨fun hc => absurd hc Bool.false_ne_true, fun _ => ⟨rfl, rfl, rfl⟩⟩
  packer := ⟨by simp, ⟨0, rfl⟩, by simp, by simp⟩
  unpacker := ⟨by simp, by simp, by simp, by simp, by simp, by simp, 0, rfl⟩
  buffers := by simp [State.BufferInv]
  results := by simp [State.ResultInv]

/-- Settles O17: the model's own `MAXN` is one of the legal ones. -/
theorem resetMeetsTheInvariant : Obligations.ResetMeetsTheInvariant :=
  ⟨resetWith_inv (by decide) (by decide), fun _ => resetWith_inv⟩

end Sys2Proof.Machine

/-! The two halves of the codec share no state (spec/70_reset_and_hazards.md R157). Each half's answer and what it
leaves for its next frame are read off from its inputs alone: the compressor's from the geometry, `FIN` and `CPREV`,
the decompressor's from the geometry, `MAXN`, `IBUF`, `DPREV` and `FOUT`. -/

namespace Sys2Proof.Machine

/-! ### The length of the output, whatever `OBUF` holds -/

theorem emitAll_olen (s : State) (bs : List Byte) : (s.emitAll bs).olen = s.olen + bs.length := by
  induction bs generalizing s with
  | nil => rfl
  | cons b bs ih => rw [State.emitAll, ih, emit_olen, List.length_cons, Nat.add_assoc, Nat.add_comm 1]

/-- A turn of the loop takes eight bits from the accumulator and adds a byte to the output. -/
theorem pkDrain_bits (fuel : Nat) (s : State) :
    8 * (State.pkDrain fuel s).olen + (State.pkDrain fuel s).pkCnt = 8 * s.olen + s.pkCnt := by
  induction fuel generalizing s with
  | zero => rfl
  | succ fuel ih =>
    rw [State.pkDrain]
    split
    · rw [ih, pkShiftByte_olen, pkShiftByte_pkCnt]
      omega
    · rfl

theorem pkPush_bits (s : State) (v : Int) :
    8 * (s.pkPush v).olen + (s.pkPush v).pkCnt = 8 * s.olen + (s.pkCnt + s.pkW) := by
  rw [State.pkPush, pkDrain_bits, pkPlace_olen, pkPlace_pkCnt]

theorem pkPushAll_bits (s : State) (vs : List Int) :
    8 * (s.pkPushAll vs).olen + (s.pkPushAll vs).pkCnt = 8 * s.olen + (s.pkCnt + vs.length * s.pkW) := by
  induction vs generalizing s with
  | nil => simp [State.pkPushAll]
  | cons v vs ih =>
    have hpush := pkPush_bits s v
    rw [State.pkPushAll, ih, pkPush_pkW, List.length_cons, Nat.succ_mul vs.length]
    omega

theorem pkFlush_olen (s : State) : s.pkFlush.olen = s.olen + s.flushBytes := by
  unfold State.pkFlush State.flushBytes
  split <;> rfl

/-- From an empty packer, the bytes that hold the bits pushed (R73). -/
theorem pkFlush_pkPushAll_olen {s : State} (h0 : s.pkCnt = 0) (vs : List Int) :
    (s.pkPushAll vs).pkFlush.olen = s.olen + bytesFor (vs.length * s.pkW) := by
  have hbits := pkPushAll_bits s vs
  have hcount := pkPushAll_pkCnt s vs (by omega)
  rw [pkFlush_olen, State.flushBytes, bytesFor]
  split <;> omega

/-- The number of bytes `COMPRESS` emits (30_encoding.md R59), for an `OBUF` in canonical form or not. -/
theorem compressed_olen_eq_payloadLength (s : State) : s.compressed.olen = payloadLength s.n s.frameWidth := by
  change (State.pkPushAll (State.pkInit (State.emitAll { s.updateCprev with olen := 0 } _) _) _).pkFlush.olen = _
  rw [pkFlush_pkPushAll_olen rfl, pkInit_olen, emitAll_olen, pkInit_pkW, length_adjacent_deltas, payloadLength]
  exact congrArg (· + _) (Nat.zero_add 4)

/-! ### The compressor -/

/-- The two states have the same inputs of the compressor. -/
structure SameCompressorInputs (s s' : State) : Prop where
  w : s.w = s'.w
  h : s.h = s'.h
  n : s.n = s'.n
  fin : s.fin = s'.fin
  cprev : s.cprev = s'.cprev

namespace SameCompressorInputs

variable {s s' : State} (same : SameCompressorInputs s s')

include same

theorem deltas : s.deltas = s'.deltas := by
  have hdelta : s.deltaAt = s'.deltaAt := by
    funext i
    rw [State.deltaAt, State.deltaAt, same.w, same.fin, same.cprev]
  rw [State.deltas, State.deltas, same.n, hdelta]

theorem frameWidth : s.frameWidth = s'.frameWidth := by rw [State.frameWidth, State.frameWidth, same.deltas]

theorem interiorPixels : s.interiorPixels = s'.interiorPixels := by
  rw [State.interiorPixels, State.interiorPixels, same.w, same.h, same.fin]

theorem compressed_cprev : s.compressed.cprev = s'.compressed.cprev := by
  rw [compressed_frame s, compressed_frame s']
  change Memory.fill s.cprev (Memory.read s.fin) (s.h * s.w) = Memory.fill s'.cprev (Memory.read s'.fin) (s'.h * s'.w)
  rw [same.cprev, same.fin, same.h, same.w]

theorem compressed_olen : s.compressed.olen = s'.compressed.olen := by
  rw [compressed_olen_eq_payloadLength, compressed_olen_eq_payloadLength, same.n, same.frameWidth]

theorem compressed_cwidth : s.compressed.cwidth = s'.compressed.cwidth := same.frameWidth

theorem compressed_csize : s.compressed.csize = s'.compressed.csize := same.compressed_olen

theorem compressed_minPix : s.compressed.minPix = s'.compressed.minPix := congrArg minFrom same.interiorPixels

theorem compressed_maxPix : s.compressed.maxPix = s'.compressed.maxPix := congrArg maxFrom same.interiorPixels

theorem compressed_payload (hwf : s.obuf.wf = true) (hwf' : s'.obuf.wf = true) :
    s.compressed.obuf.slice 0 s.compressed.olen = s'.compressed.obuf.slice 0 s'.compressed.olen := by
  rw [compressed_slice hwf, compressed_slice hwf', same.deltas, same.frameWidth]

end SameCompressorInputs

/-! ### The decompressor -/

section
variable {s : State} {w : BitVec 8} {size : Value}

theorem length_of_popDeltas {k : Nat} {d : Int} {ds : List Int} (h : (State.popDeltas k d s).1 = some ds) :
    ds.length = k := by
  induction k generalizing s d ds with
  | zero => simp [← Option.some.inj h]
  | succ k ih =>
    cases hpop : s.upPop.1 with
    | none =>
      rw [popDeltas_of_none hpop] at h
      cases h
    | some v =>
      rw [popDeltas_of_some hpop] at h
      obtain ⟨es, hes, rfl⟩ := Option.map_eq_some_iff.1 h
      rw [List.length_cons, ih hes]

/-- A payload that is long enough: the frame it decodes to, and the bytes read. -/
theorem exec_decompress_enough (hc : s.cfg = true) (hw : widthLegal w = true) (hs : size.toNat ≤ s.bufcap)
    (hfit : payloadLength s.n w.toNat ≤ size.toNat) :
    ∃ ds u, exec (.decompress w size) s = finish 0 (count32 (payloadLength s.n w.toNat)) u ∧
      RunningSums s.firstDelta (s.packedValues w.toNat size.toNat) ds ∧ ds.length = s.n - 1 ∧ u.trace = s.trace ∧
      u.fout = Memory.fill s.fout (s.outPixel (s.firstDelta :: ds)) (s.h * s.w) ∧
      u.dprev = Memory.fill s.dprev (s.outPixel (s.firstDelta :: ds)) (s.h * s.w) := by
  have hw32 := ((widthLegal_iff w).1 hw).2
  obtain ⟨ds, hds, hiptr, hsums⟩ := decoded_of_enough hw32 hfit
  have hexec := exec_decompress_some hc hw hs ((Nat.le_add_right 4 _).trans hfit) hds
  rw [placeFrame_decoded, hiptr] at hexec
  exact ⟨ds, _, hexec, hsums, length_of_popDeltas hds, rfl, rfl, rfl⟩

end

/-- The two states have the same inputs of the decompressor. -/
structure SameDecompressorInputs (s s' : State) : Prop where
  cfg : s.cfg = s'.cfg
  w : s.w = s'.w
  h : s.h = s'.h
  n : s.n = s'.n
  maxN : s.maxN = s'.maxN
  ibuf : s.ibuf = s'.ibuf
  dprev : s.dprev = s'.dprev

/-- The two states have the same answers so far, and the same decoded frame and previous frame. -/
structure SameDecompressorResults (s s' : State) : Prop where
  trace : s.trace = s'.trace
  fout : s.fout = s'.fout
  dprev : s.dprev = s'.dprev

/-- One and the same response keeps the results the same. -/
theorem SameDecompressorResults.of_respond {i : Instr} {e : Err} {aux : BitVec 8} {val : Value} {s s' t t' u u' : State}
    (same : SameDecompressorResults u u') (hexec : exec i s = .next (u.respond e aux val))
    (hexec' : exec i s' = .next (u'.respond e aux val)) (ht : exec i s = .next t) (ht' : exec i s' = .next t') :
    SameDecompressorResults t t' := by
  obtain rfl := Host.Outcome.next.inj (hexec.symm.trans ht)
  obtain rfl := Host.Outcome.next.inj (hexec'.symm.trans ht')
  exact ⟨congrArg (· ++ _) same.trace, same.fout, same.dprev⟩

namespace SameDecompressorInputs

variable {s s' : State} (same : SameDecompressorInputs s s')

include same

theorem bufcap : s.bufcap = s'.bufcap := congrArg (4 * ·) same.maxN

theorem firstDelta : s.firstDelta = s'.firstDelta := by rw [State.firstDelta, State.firstDelta, same.ibuf]

theorem packedValues (w size : Nat) : s.packedValues w size = s'.packedValues w size := by
  rw [State.packedValues, State.packedValues, same.n, same.ibuf]

/-- Deltas that are running sums of the same values give the same pixels, as a pixel takes them modulo `2^16`. -/
theorem outPixel {d : Int} {vs ds ds' : List Int} (h : RunningSums d vs ds) (h' : RunningSums d vs ds')
    (hlen : ds.length = vs.length) (hlen' : ds'.length = vs.length) :
    s.outPixel (d :: ds) = s'.outPixel (d :: ds') := by
  funext i
  rw [State.outPixel, State.outPixel, same.w, same.dprev]
  generalize snake s'.w (i / s'.w) (i % s'.w) = j
  rcases Nat.lt_or_ge vs.length j with hbeyond | hj
  · rw [List.getD_eq_default _ _ (by rw [List.length_cons]; omega),
      List.getD_eq_default _ _ (by rw [List.length_cons]; omega)]
  · exact ofInt_add_congr _ ((h j hj).trans (h' j hj).symm)

section
variable {w : BitVec 8} {size : Value} {t t' : State} (hres : SameDecompressorResults s s')
  (ht : exec (.decompress w size) s = .next t) (ht' : exec (.decompress w size) s' = .next t')

include hres ht ht'

/-- Both engines decode the whole payload. -/
theorem results_of_enough (hc : s.cfg = true) (hw : widthLegal w = true) (hs : size.toNat ≤ s.bufcap)
    (hfit : payloadLength s.n w.toNat ≤ size.toNat) : SameDecompressorResults t t' := by
  obtain ⟨ds, u, hexec, hsums, hlen, htrace, hfout, hdprev⟩ := exec_decompress_enough hc hw hs hfit
  rw [same.cfg] at hc
  rw [same.bufcap] at hs
  rw [same.n] at hfit hexec hlen
  rw [same.firstDelta, same.packedValues] at hsums
  obtain ⟨ds', u', hexec', hsums', hlen', htrace', hfout', hdprev'⟩ := exec_decompress_enough hc hw hs hfit
  have hpixels := same.outPixel hsums hsums' (hlen.trans (length_packedValues ..).symm)
    (hlen'.trans (length_packedValues ..).symm)
  have hplaced : SameDecompressorResults u u' := by
    constructor
    · rw [htrace, htrace', hres.trace]
    · rw [hfout, hfout', hres.fout, same.firstDelta, hpixels, same.h, same.w]
    · rw [hdprev, hdprev', hres.dprev, same.firstDelta, hpixels, same.h, same.w]
  exact hplaced.of_respond hexec hexec' ht ht'

/-- Each check of `DECOMPRESS` is decided the same way for the two engines. -/
theorem results : SameDecompressorResults t t' := by
  cases hc : s.cfg with
  | false =>
    have hc' := same.cfg.symm.trans hc
    exact hres.of_respond (exec_notConfigured rfl hc) (exec_notConfigured rfl hc') ht ht'
  | true =>
  have hc' := same.cfg.symm.trans hc
  cases hw : widthLegal w with
  | false => exact hres.of_respond (exec_decompress_badWidth hc hw size) (exec_decompress_badWidth hc' hw size) ht ht'
  | true =>
  rcases Nat.lt_or_ge s.bufcap size.toNat with hbig | hs
  · have hbig' := same.bufcap.symm.trans_lt hbig
    exact hres.of_respond (exec_decompress_badOperand hc hw hbig) (exec_decompress_badOperand hc' hw hbig') ht ht'
  rcases Nat.lt_or_ge size.toNat (payloadLength s.n w.toNat) with hshort | hfit
  · have hclosed : SameDecompressorResults (State.upClose { s with ilen := size.toNat, iptr := size.toNat })
        (State.upClose { s' with ilen := size.toNat, iptr := size.toNat }) := ⟨hres.trace, hres.fout, hres.dprev⟩
    have hshort' := hshort
    rw [same.n] at hshort'
    exact hclosed.of_respond (exec_decompress_short hc hw hs hshort)
      (exec_decompress_short hc' hw (hs.trans_eq same.bufcap) hshort') ht ht'
  · exact same.results_of_enough hres ht ht' hc hw hs hfit

end

end SameDecompressorInputs

/-- Settles O56: all that `COMPRESS` leaves and answers is computed from its inputs, the length of the output with it,
and every way through `DECOMPRESS` is taken by both engines, with the same pixels in the end. -/
theorem compressorAndDecompressorAreIndependent : Obligations.CompressorAndDecompressorAreIndependent := by
  intro s s' t t' hcfg hw hh hn htrace
  refine ⟨fun hfin hcprev ht ht' => ?_, fun w size hmaxN hibuf hdprev hfout ht ht' => ?_⟩
  · have same : SameCompressorInputs s s' := ⟨hw, hh, hn, hfin, hcprev⟩
    cases hc : s.cfg with
    | false =>
      obtain rfl := Host.Outcome.next.inj ((exec_notConfigured rfl hc).symm.trans ht)
      obtain rfl := Host.Outcome.next.inj ((exec_notConfigured rfl (hcfg.symm.trans hc)).symm.trans ht')
      exact ⟨congrArg (· ++ _) htrace, hcprev, fun hc' => absurd hc' Bool.false_ne_true⟩
    | true =>
      obtain rfl := Host.Outcome.next.inj ((exec_compress hc).symm.trans ht)
      obtain rfl := Host.Outcome.next.inj ((exec_compress (hcfg.symm.trans hc)).symm.trans ht')
      refine ⟨?_, same.compressed_cprev, fun _ => ⟨same.compressed_cwidth, same.compressed_csize,
        same.compressed_minPix, same.compressed_maxPix, same.compressed_olen, same.compressed_payload⟩⟩
      rw [respond_trace, respond_trace, compressed_trace, compressed_trace, htrace, same.compressed_cwidth,
        same.compressed_csize]
  · have same : SameDecompressorInputs s s' := ⟨hcfg, hw, hh, hn, hmaxN, hibuf, hdprev⟩
    obtain ⟨htrace', hfout', hdprev'⟩ := same.results ⟨htrace, hfout, hdprev⟩ ht ht'
    exact ⟨htrace', hfout', hdprev'⟩

end Sys2Proof.Machine
